-- ==== Sys2Proof/Word.lean ====
section
/-! DEFINITION. The word types of the YCPU (spec/10_state.md R20, R23; spec/20_memory.md R60).
Every register and cache word is 16 bits; the addressable unit is the byte. -/

namespace Sys2Proof

/-- One byte, the addressable unit (20_memory.md R60). -/
abbrev Byte := BitVec 8

/-- One register, cache word, logical address or instruction word (00_scope.md R6: 16 bits, fixed). -/
abbrev Word := BitVec 16

end Sys2Proof
end

