-- ==== Sys2Proof/Syntax/Operand.lean ====
section
/-! DEFINITION. The operand forms of the instructions (spec/30_encoding.md R115, R125, R126, R129, R130). -/

namespace Sys2Proof

/-- A general register number, R0 to R7 (10_state.md R21). -/
abbrev Reg := Fin 8

/-- The addressing modes of the ALU, AL8 and JMP formats, with their next word where they have one
(30_encoding.md R125, R126). -/
inductive Operand where
  /-- Immediate `$1234`. -/
  | imm (v : Word)
  /-- Absolute `[$1234]`. -/
  | abs (a : Word)
  /-- Register `Rx`. -/
  | reg (r : Reg)
  /-- Indirect `[Rx]`. -/
  | ind (r : Reg)
  /-- Indirect Offset `[Rx,$1234]`. -/
  | indOff (r : Reg) (off : Word)
  /-- Indirect PostInc `[Rx+]`. -/
  | postInc (r : Reg)
  /-- Indirect PreDec `[-Rx]`. -/
  | preDec (r : Reg)
  /-- Indirect Indexed `[Rx,Ry]`. -/
  | indexed (r ix : Reg)
  deriving DecidableEq, Repr

/-- A shift count or a bit number: four bits of the word, or a register (30_encoding.md R115, R129). -/
inductive Count where
  | imm (n : BitVec 4)
  | reg (r : Reg)
  deriving DecidableEq, Repr

/-- The four octet moves of SWO (30_encoding.md R130, 49_processor.md R346). -/
inductive SwoOp where
  | lr
  | hr
  | lw
  | hw
  deriving DecidableEq, Repr

end Sys2Proof
end

