-- ==== Sys2Proof/Machine/Bits.lean ====
section
/-! DEFINITION. Byte order, bit fields and sign extension (spec/00_scope.md R7, R8; spec/20_memory.md R62). -/

namespace Sys2Proof

/-- Bits 7:0 of a word, the byte at its address (20_memory.md R62). -/
def loByte (w : Word) : Byte := w.extractLsb' 0 8

/-- Bits 15:8 of a word, the byte at its address plus 1 (20_memory.md R62). -/
def hiByte (w : Word) : Byte := w.extractLsb' 8 8

/-- The word whose low byte lies first in memory (20_memory.md R62). -/
def wordOf (lo hi : Byte) : Word := hi ++ lo

/-- A register field as a register number (10_state.md R21). -/
def toReg (b : BitVec 3) : Reg := ⟨b.toNat, b.isLt⟩

/-- A register number as a register field (10_state.md R21). -/
def ofReg (r : Reg) : BitVec 3 := BitVec.ofNat 3 r.val

/-- The logical bank of an address, `addr[15:12]` (20_memory.md R73). -/
def bankOf (a : Word) : Fin 16 := ⟨(a.extractLsb' 12 4).toNat, (a.extractLsb' 12 4).isLt⟩

/-- The offset within a bank, `addr[11:0]` (20_memory.md R73). -/
def offsetOf (a : Word) : BitVec 12 := a.extractLsb' 0 12

/-- The byte offset of a branch, `2 * sext_8(b)` (30_encoding.md R116). -/
def branchOffset (b : BitVec 8) : Word := 2 * b.signExtend 16

/-- The number of bits of a four-bit count or of the low four bits of a register (30_encoding.md R115, R129). -/
def lowNibble (w : Word) : BitVec 4 := w.extractLsb' 0 4

end Sys2Proof
end

