-- ==== Sys2Proof/Syntax.lean ====
section
/-! DEFINITION. The instructions of the YCPU: one constructor per row of spec/opcode_table.json, in the table's order.
Rows the table sets on top of others (the undefined sub-encodings, HWQ $00 to $04, the spellings RTS, INC, DEC) have
constructors of their own; the word of a row belongs to the row with the largest mask (spec/INDEX.md). -/

namespace Sys2Proof

/-- One constructor per row of spec/opcode_table.json. -/
inductive Instr where
  -- ALU format (40_alu.md)
  | lod (rd : Reg) (m : Operand)
  | sto (rd : Reg) (m : Operand)
  | add (rd : Reg) (m : Operand)
  | sub (rd : Reg) (m : Operand)
  | adc (rd : Reg) (m : Operand)
  | sbc (rd : Reg) (m : Operand)
  | mul (rd : Reg) (m : Operand)
  | div (rd : Reg) (m : Operand)
  | mli (rd : Reg) (m : Operand)
  | dvi (rd : Reg) (m : Operand)
  | mod (rd : Reg) (m : Operand)
  | mdi (rd : Reg) (m : Operand)
  | and (rd : Reg) (m : Operand)
  | orr (rd : Reg) (m : Operand)
  | eor (rd : Reg) (m : Operand)
  | not (rd : Reg) (m : Operand)
  | cmp (rd : Reg) (m : Operand)
  | neg (rd : Reg) (m : Operand)
  | undefStoImm
  | undefStoReg
  -- AL8 format
  | lod8 (rd : Reg) (m : Operand)
  | sto8 (rd : Reg) (m : Operand)
  | undefSto8Imm
  | undefSto8Reg
  -- BRA format (43_branch.md); the offset counts words
  | bcc (off : BitVec 8)
  | bcs (off : BitVec 8)
  | bne (off : BitVec 8)
  | beq (off : BitVec 8)
  | bpl (off : BitVec 8)
  | bmi (off : BitVec 8)
  | bvc (off : BitVec 8)
  | bvs (off : BitVec 8)
  | bug (off : BitVec 8)
  | bsg (off : BitVec 8)
  | undefBranchA
  | undefBranchB
  | undefBranchC
  | undefBranchD
  | undefBranchE
  | baw (off : BitVec 8)
  -- SHF format (41_shift.md)
  | asl (rd : Reg) (n : Count)
  | lsl (rd : Reg) (n : Count)
  | rol (rd : Reg) (n : Count)
  | rnl (rd : Reg) (n : Count)
  | asr (rd : Reg) (n : Count)
  | lsr (rd : Reg) (n : Count)
  | ror (rd : Reg) (n : Count)
  | rnr (rd : Reg) (n : Count)
  -- BTT format (42_bittest.md)
  | bit (rd : Reg) (n : Count)
  | btx (rd : Reg) (n : Count)
  | btc (rd : Reg) (n : Count)
  | bts (rd : Reg) (n : Count)
  -- SWO, FPU, FLG formats
  | swo (rd rs : Reg) (op : SwoOp)
  | fpa (rx ry : Reg)
  | fps (rx ry : Reg)
  | fpm (rx ry : Reg)
  | fpd (rx ry : Reg)
  /-- `mask` is W[15:12]: N, Z, C, V from bit 3 down. -/
  | sef (mask : BitVec 4)
  | clf (mask : BitVec 4)
  -- STK formats (48_stack.md)
  /-- Bit i of `list` selects Ri. -/
  | pshGeneral (list : BitVec 8)
  /-- `list` is W[12:8]: FL, PC, PS, USP, SP from bit 4 down. -/
  | pshSpecial (list : BitVec 5)
  | popGeneral (list : BitVec 8)
  | popSpecial (list : BitVec 5)
  | rts
  -- MIM format
  | mim (rv ra : Reg)
  | mia (ra : Reg)
  | undefMim2
  | undefMim3
  | undefB5
  /-- `lo` is W[0]. -/
  | undefB6 (lo : BitVec 1)
  -- IMM format (45_immediate.md); the operand is `v + 1`
  | adi (rd : Reg) (v : BitVec 5)
  | sbi (rd : Reg) (v : BitVec 5)
  | inc (rd : Reg)
  | dec (rd : Reg)
  -- XSR format
  | tsr (rd : Reg) (sr : BitVec 5)
  | trs (rs : Reg) (sr : BitVec 5)
  /-- `lo` is W[1:0]. -/
  | undefBC (lo : BitVec 2)
  -- JMP format and the instructions without operands (47_jump_call.md, 46_interrupt_instr.md, 49_processor.md)
  | jmp (m : Operand)
  | jsr (m : Operand)
  | jmu (m : Operand)
  | jcx
  | hwq (op : BitVec 8)
  | hwqCount
  | hwqQuery
  | hwqMessage
  | hwqSetTick
  | hwqGetTime
  | slp
  | swi
  | rti
  /-- `lo` is W[1:0]. -/
  | undefC8 (lo : BitVec 2)
  | mmr (rv ra : Reg)
  | mmw (rv ra : Reg)
  | mml (m : Operand)
  | mms (m : Operand)
  /-- `lo` is W[4:0]. -/
  | undefE0 (lo : BitVec 5)
  deriving DecidableEq, Repr

end Sys2Proof
end

