-- ==== Sys2Proof/Decode.lean ====
section
/-! DEFINITION. The decoder and, after it, the encoder, both written from spec/30_encoding.md: the opcode map R120, the
formats R112 to R132 and the rule of the largest mask (spec/INDEX.md). Every pair of words decodes: the undefined
encodings are instructions that raise UndefOpcode (R134); only too few bytes are refused, by name. -/

namespace Sys2Proof

/-- Why bytes give no instruction: fewer bytes than the instruction is long. -/
inductive DecodeError where
  | truncated
  deriving DecidableEq, Repr

/-- `W[15:13]`. -/
def fieldHi (w : Word) : Reg := toReg (w.extractLsb' 13 3)

/-- `W[12:10]`. -/
def fieldMid (w : Word) : Reg := toReg (w.extractLsb' 10 3)

/-- The addressing modes from the mode field, the high bit of the index register and the next word
(30_encoding.md R113, R125, R126): in mode 000 `W[8]` tells Immediate from Absolute. -/
def operandOf (mode : BitVec 3) (w nw : Word) : Operand :=
  match mode.toNat with
  | 0 => if w.getLsbD 8 then .abs nw else .imm nw
  | 1 => .reg (fieldMid w)
  | 2 => .ind (fieldMid w)
  | 3 => .indOff (fieldMid w) nw
  | 4 => .postInc (fieldMid w)
  | 5 => .preDec (fieldMid w)
  | 6 => .indexed (fieldMid w) (toReg (0#1 ++ w.extractLsb' 8 2))
  | _ => .indexed (fieldMid w) (toReg (1#1 ++ w.extractLsb' 8 2))

/-- The operand of the ALU and AL8 formats: the mode is `W[2:0]` (30_encoding.md R112, R125). -/
def aluOperand (w nw : Word) : Operand := operandOf (w.extractLsb' 0 3) w nw

/-- The operand of the JMP format: the mode is `W[15:13]` (30_encoding.md R121, R126). -/
def jmpOperand (w nw : Word) : Operand := operandOf (w.extractLsb' 13 3) w nw

/-- The shift count or bit number (30_encoding.md R115, R129): `W[12]` selects a register, then `W[11]` is ignored. -/
def countOf (w : Word) : Count :=
  if w.getLsbD 12 then .reg (toReg (w.extractLsb' 8 3)) else .imm (w.extractLsb' 8 4)

/-- The octet move of SWO, `W[9:8]` (30_encoding.md R130). -/
def swoOpOf (w : Word) : SwoOp :=
  match (w.extractLsb' 8 2).toNat with
  | 0 => .lr
  | 1 => .hr
  | 2 => .lw
  | _ => .hw

/-- STO and STO.8 in Immediate and Register mode are the rows UNDEFINED (30_encoding.md R134 item 2). -/
def storeOf (mk : Reg → Operand → Instr) (undefImm undefReg : Instr) (w nw : Word) : Instr :=
  match aluOperand w nw with
  | .imm _ => undefImm
  | .reg _ => undefReg
  | m => mk (fieldHi w) m

/-- HWQ by its operation index `W[15:8]` (30_encoding.md R119, 49_processor.md R325). -/
def hwqOf (op : BitVec 8) : Instr :=
  match op.toNat with
  | 0 => .hwqCount
  | 1 => .hwqQuery
  | 2 => .hwqMessage
  | 3 => .hwqSetTick
  | 4 => .hwqGetTime
  | _ => .hwq op

/-- The opcode map for low octets $90 to $CF and $E0 to $FF (30_encoding.md R120). -/
def decodeOther (w nw : Word) : Instr :=
  let hi := w.extractLsb' 8 8
  match (w.extractLsb' 0 8).toNat with
  | 0x90 => .bcc hi
  | 0x91 => .bcs hi
  | 0x92 => .bne hi
  | 0x93 => .beq hi
  | 0x94 => .bpl hi
  | 0x95 => .bmi hi
  | 0x96 => .bvc hi
  | 0x97 => .bvs hi
  | 0x98 => .bug hi
  | 0x99 => .bsg hi
  | 0x9A => .undefBranchA
  | 0x9B => .undefBranchB
  | 0x9C => .undefBranchC
  | 0x9D => .undefBranchD
  | 0x9E => .undefBranchE
  | 0x9F => .baw hi
  | 0xA0 => .asl (fieldHi w) (countOf w)
  | 0xA1 => .lsl (fieldHi w) (countOf w)
  | 0xA2 => .rol (fieldHi w) (countOf w)
  | 0xA3 => .rnl (fieldHi w) (countOf w)
  | 0xA4 => .asr (fieldHi w) (countOf w)
  | 0xA5 => .lsr (fieldHi w) (countOf w)
  | 0xA6 => .ror (fieldHi w) (countOf w)
  | 0xA7 => .rnr (fieldHi w) (countOf w)
  | 0xA8 => .bit (fieldHi w) (countOf w)
  | 0xA9 => .btx (fieldHi w) (countOf w)
  | 0xAA => .btc (fieldHi w) (countOf w)
  | 0xAB => .bts (fieldHi w) (countOf w)
  | 0xAC => .swo (fieldHi w) (fieldMid w) (swoOpOf w)
  | 0xAD =>
    match (w.extractLsb' 8 2).toNat with
    | 0 => .fpa (fieldHi w) (fieldMid w)
    | 1 => .fps (fieldHi w) (fieldMid w)
    | 2 => .fpm (fieldHi w) (fieldMid w)
    | _ => .fpd (fieldHi w) (fieldMid w)
  | 0xAE => .sef (w.extractLsb' 12 4)
  | 0xAF => .clf (w.extractLsb' 12 4)
  | 0xB0 => .pshGeneral hi
  | 0xB1 => .pshSpecial (w.extractLsb' 8 5)
  | 0xB2 => .popGeneral hi
  | 0xB3 => if w.extractLsb' 8 5 = 0b01000#5 then .rts else .popSpecial (w.extractLsb' 8 5)
  | 0xB4 =>
    match (w.extractLsb' 8 2).toNat with
    | 0 => .mim (fieldHi w) (fieldMid w)
    | 1 => .mia (fieldMid w)
    | 2 => .undefMim2
    | _ => .undefMim3
  | 0xB5 => .undefB5
  | 0xB6 => .undefB6 0
  | 0xB7 => .undefB6 1
  | 0xB8 => if w.extractLsb' 8 5 = 0#5 then .inc (fieldHi w) else .adi (fieldHi w) (w.extractLsb' 8 5)
  | 0xB9 => if w.extractLsb' 8 5 = 0#5 then .dec (fieldHi w) else .sbi (fieldHi w) (w.extractLsb' 8 5)
  | 0xBA => .tsr (fieldHi w) (w.extractLsb' 8 5)
  | 0xBB => .trs (fieldHi w) (w.extractLsb' 8 5)
  | 0xBC => .undefBC 0
  | 0xBD => .undefBC 1
  | 0xBE => .undefBC 2
  | 0xBF => .undefBC 3
  | 0xC0 => .jmp (jmpOperand w nw)
  | 0xC1 => .jsr (jmpOperand w nw)
  | 0xC2 => .jmu (jmpOperand w nw)
  | 0xC3 => .jcx
  | 0xC4 => hwqOf hi
  | 0xC5 => .slp
  | 0xC6 => .swi
  | 0xC7 => .rti
  | 0xC8 => .undefC8 0
  | 0xC9 => .undefC8 1
  | 0xCA => .undefC8 2
  | 0xCB => .undefC8 3
  | 0xCC => .mmr (fieldHi w) (fieldMid w)
  | 0xCD => .mmw (fieldHi w) (fieldMid w)
  | 0xCE => .mml (jmpOperand w nw)
  | 0xCF => .mms (jmpOperand w nw)
  | _ => .undefE0 (w.extractLsb' 0 5)

/-- The instruction of an instruction word `w` and the word `nw` after it, which only instructions with a next word use:
`W[7:3]` selects the ALU and AL8 rows, the low octet the rest (30_encoding.md R112, R114, R120). -/
def decodeWords (w nw : Word) : Instr :=
  match (w.extractLsb' 3 5).toNat with
  | 0 => .lod (fieldHi w) (aluOperand w nw)
  | 1 => storeOf .sto .undefStoImm .undefStoReg w nw
  | 2 => .add (fieldHi w) (aluOperand w nw)
  | 3 => .sub (fieldHi w) (aluOperand w nw)
  | 4 => .adc (fieldHi w) (aluOperand w nw)
  | 5 => .sbc (fieldHi w) (aluOperand w nw)
  | 6 => .mul (fieldHi w) (aluOperand w nw)
  | 7 => .div (fieldHi w) (aluOperand w nw)
  | 8 => .mli (fieldHi w) (aluOperand w nw)
  | 9 => .dvi (fieldHi w) (aluOperand w nw)
  | 10 => .mod (fieldHi w) (aluOperand w nw)
  | 11 => .mdi (fieldHi w) (aluOperand w nw)
  | 12 => .and (fieldHi w) (aluOperand w nw)
  | 13 => .orr (fieldHi w) (aluOperand w nw)
  | 14 => .eor (fieldHi w) (aluOperand w nw)
  | 15 => .not (fieldHi w) (aluOperand w nw)
  | 16 => .cmp (fieldHi w) (aluOperand w nw)
  | 17 => .neg (fieldHi w) (aluOperand w nw)
  | 26 => .lod8 (fieldHi w) (aluOperand w nw)
  | 27 => storeOf .sto8 .undefSto8Imm .undefSto8Reg w nw
  | _ => decodeOther w nw

/-- Whether an operand has a next word: Immediate, Absolute and Indirect Offset modes (30_encoding.md R136). -/
def Operand.hasNext : Operand → Bool
  | .imm _ => true
  | .abs _ => true
  | .indOff _ _ => true
  | _ => false

/-- The addressing-mode operand of an instruction, where its format has one. -/
def Instr.operand? : Instr → Option Operand
  | .lod _ m => some m
  | .sto _ m => some m
  | .add _ m => some m
  | .sub _ m => some m
  | .adc _ m => some m
  | .sbc _ m => some m
  | .mul _ m => some m
  | .div _ m => some m
  | .mli _ m => some m
  | .dvi _ m => some m
  | .mod _ m => some m
  | .mdi _ m => some m
  | .and _ m => some m
  | .orr _ m => some m
  | .eor _ m => some m
  | .not _ m => some m
  | .cmp _ m => some m
  | .neg _ m => some m
  | .lod8 _ m => some m
  | .sto8 _ m => some m
  | .jmp m => some m
  | .jsr m => some m
  | .jmu m => some m
  | .mml m => some m
  | .mms m => some m
  | _ => none

/-- Whether the instruction has a next word (30_encoding.md R136). -/
def Instr.hasNext (i : Instr) : Bool :=
  match i.operand? with
  | some m => m.hasNext
  | none => false

/-- The length in bytes, 2 or 4 (30_encoding.md R110, R136). -/
def Instr.length (i : Instr) : Nat := if i.hasNext then 4 else 2

/-- Whether the word `w` is that of an instruction with a next word; the value of the next word does not matter. -/
def needsNextWord (w : Word) : Bool := (decodeWords w 0).hasNext

/-- The decoder on bytes in memory order: the instruction and the bytes after it, or the reason there is none. -/
def decode : List Byte → Except DecodeError (Instr × List Byte)
  | b0 :: b1 :: rest =>
    if needsNextWord (wordOf b0 b1) then
      match rest with
      | b2 :: b3 :: rest' => .ok (decodeWords (wordOf b0 b1) (wordOf b2 b3), rest')
      | _ => .error .truncated
    else .ok (decodeWords (wordOf b0 b1) 0, rest)
  | _ => .error .truncated

/-- The bytes of an instruction whose bits are `w`, numbered as spec/opcode_table.json numbers them, laid out as the
hardware stores them: each word little-endian, the first word first (20_memory.md R62). Bits at and above `nbits` are 0,
up to the longest instruction, 4 bytes. -/
def tableBytes (nbits w : Nat) : List Byte :=
  (List.range 4).map fun k => BitVec.ofNat 8 ((w % 2 ^ nbits) >>> (8 * k))

/-- The instruction the decoder reads from an instruction whose bits are `w`. -/
def decodeTableWord (nbits w : Nat) : Option Instr :=
  match decode (tableBytes nbits w) with
  | .ok (i, _) => some i
  | .error _ => none

-- The encoder.

/-- The mode, register and index fields of an operand (30_encoding.md R113, R125, R126): the mode code, `W[12:10]`, `W[9:8]`.
Unused fields are 0, as an assembler emits them (R135). -/
def Operand.fields : Operand → BitVec 3 × BitVec 3 × BitVec 2
  | .imm _ => (0, 0, 0)
  | .abs _ => (0, 0, 1)
  | .reg r => (1, ofReg r, 0)
  | .ind r => (2, ofReg r, 0)
  | .indOff r _ => (3, ofReg r, 0)
  | .postInc r => (4, ofReg r, 0)
  | .preDec r => (5, ofReg r, 0)
  | .indexed r ix => (if 4 ≤ ix.val then 7 else 6, ofReg r, (ofReg ix).extractLsb' 0 2)

/-- The next word of an operand, where it has one. -/
def Operand.next : Operand → List Word
  | .imm v => [v]
  | .abs a => [a]
  | .indOff _ off => [off]
  | _ => []

/-- ALU and AL8 formats, `RRRr rrii OOOO OAAA` (30_encoding.md R112, R114). -/
def encAlu (op : BitVec 5) (rd : Reg) (m : Operand) : List Word :=
  (ofReg rd ++ m.fields.2.1 ++ m.fields.2.2 ++ op ++ m.fields.1 : BitVec 16) :: m.next

/-- JMP format, `AAAr rrii OOOO OOOO` (30_encoding.md R121). -/
def encJmp (op : BitVec 8) (m : Operand) : List Word :=
  (m.fields.1 ++ m.fields.2.1 ++ m.fields.2.2 ++ op : BitVec 16) :: m.next

/-- Formats whose high octet is one field (30_encoding.md R116, R119, R127, R132). -/
def encHi (op : BitVec 8) (hi : BitVec 8) : List Word := [hi ++ op]

/-- Formats with two register fields and two more bits, `RRRr rroo OOOO OOOO` (30_encoding.md R118, R123, R124, R130). -/
def encRegs (op : BitVec 8) (hi mid : Reg) (o : BitVec 2) : List Word :=
  [(ofReg hi ++ ofReg mid ++ o ++ op : BitVec 16)]

/-- Formats with a register field and five more bits, `RRRv vvvv OOOO OOOO` (30_encoding.md R122, R128, R131). -/
def encFive (op : BitVec 8) (hi : BitVec 3) (v : BitVec 5) : List Word := [(hi ++ v ++ op : BitVec 16)]

/-- SHF and BTT formats, `rrrR ssss OOOO OOOO` (30_encoding.md R115, R129). -/
def encCount (op : BitVec 8) (rd : Reg) : Count → List Word
  | .imm n => encFive op (ofReg rd) (0#1 ++ n)
  | .reg r => encFive op (ofReg rd) (2#2 ++ ofReg r)

/-- FLG format, `NZCV .... OOOO OOOO` (30_encoding.md R117). -/
def encFlags (op : BitVec 8) (mask : BitVec 4) : List Word := [(mask ++ 0#4 ++ op : BitVec 16)]

/-- The two operation bits of SWO (30_encoding.md R130). -/
def SwoOp.bits : SwoOp → BitVec 2
  | .lr => 0
  | .hr => 1
  | .lw => 2
  | .hw => 3

/-- The words of an instruction (30_encoding.md R112 to R132). -/
def encode : Instr → List Word
  | .lod rd m => encAlu 0 rd m
  | .sto rd m => encAlu 1 rd m
  | .add rd m => encAlu 2 rd m
  | .sub rd m => encAlu 3 rd m
  | .adc rd m => encAlu 4 rd m
  | .sbc rd m => encAlu 5 rd m
  | .mul rd m => encAlu 6 rd m
  | .div rd m => encAlu 7 rd m
  | .mli rd m => encAlu 8 rd m
  | .dvi rd m => encAlu 9 rd m
  | .mod rd m => encAlu 10 rd m
  | .mdi rd m => encAlu 11 rd m
  | .and rd m => encAlu 12 rd m
  | .orr rd m => encAlu 13 rd m
  | .eor rd m => encAlu 14 rd m
  | .not rd m => encAlu 15 rd m
  | .cmp rd m => encAlu 16 rd m
  | .neg rd m => encAlu 17 rd m
  | .undefStoImm => [0x0008]
  | .undefStoReg => [0x0009]
  | .lod8 rd m => encAlu 26 rd m
  | .sto8 rd m => encAlu 27 rd m
  | .undefSto8Imm => [0x00D8]
  | .undefSto8Reg => [0x00D9]
  | .bcc off => encHi 0x90 off
  | .bcs off => encHi 0x91 off
  | .bne off => encHi 0x92 off
  | .beq off => encHi 0x93 off
  | .bpl off => encHi 0x94 off
  | .bmi off => encHi 0x95 off
  | .bvc off => encHi 0x96 off
  | .bvs off => encHi 0x97 off
  | .bug off => encHi 0x98 off
  | .bsg off => encHi 0x99 off
  | .undefBranchA => [0x009A]
  | .undefBranchB => [0x009B]
  | .undefBranchC => [0x009C]
  | .undefBranchD => [0x009D]
  | .undefBranchE => [0x009E]
  | .baw off => encHi 0x9F off
  | .asl rd n => encCount 0xA0 rd n
  | .lsl rd n => encCount 0xA1 rd n
  | .rol rd n => encCount 0xA2 rd n
  | .rnl rd n => encCount 0xA3 rd n
  | .asr rd n => encCount 0xA4 rd n
  | .lsr rd n => encCount 0xA5 rd n
  | .ror rd n => encCount 0xA6 rd n
  | .rnr rd n => encCount 0xA7 rd n
  | .bit rd n => encCount 0xA8 rd n
  | .btx rd n => encCount 0xA9 rd n
  | .btc rd n => encCount 0xAA rd n
  | .bts rd n => encCount 0xAB rd n
  | .swo rd rs op => encRegs 0xAC rd rs op.bits
  | .fpa rx ry => encRegs 0xAD rx ry 0
  | .fps rx ry => encRegs 0xAD rx ry 1
  | .fpm rx ry => encRegs 0xAD rx ry 2
  | .fpd rx ry => encRegs 0xAD rx ry 3
  | .sef mask => encFlags 0xAE mask
  | .clf mask => encFlags 0xAF mask
  | .pshGeneral l => encHi 0xB0 l
  | .pshSpecial l => encFive 0xB1 0 l
  | .popGeneral l => encHi 0xB2 l
  | .popSpecial l => encFive 0xB3 0 l
  | .rts => [0x08B3]
  | .mim rv ra => encRegs 0xB4 rv ra 0
  | .mia ra => encRegs 0xB4 0 ra 1
  | .undefMim2 => [0x02B4]
  | .undefMim3 => [0x03B4]
  | .undefB5 => [0x00B5]
  | .undefB6 lo => [(0x5B#15 ++ lo : BitVec 16)]
  | .adi rd v => encFive 0xB8 (ofReg rd) v
  | .sbi rd v => encFive 0xB9 (ofReg rd) v
  | .inc rd => encFive 0xB8 (ofReg rd) 0
  | .dec rd => encFive 0xB9 (ofReg rd) 0
  | .tsr rd sr => encFive 0xBA (ofReg rd) sr
  | .trs rs sr => encFive 0xBB (ofReg rs) sr
  | .undefBC lo => [(0x2F#14 ++ lo : BitVec 16)]
  | .jmp m => encJmp 0xC0 m
  | .jsr m => encJmp 0xC1 m
  | .jmu m => encJmp 0xC2 m
  | .jcx => [0x00C3]
  | .hwq op => encHi 0xC4 op
  | .hwqCount => [0x00C4]
  | .hwqQuery => [0x01C4]
  | .hwqMessage => [0x02C4]
  | .hwqSetTick => [0x03C4]
  | .hwqGetTime => [0x04C4]
  | .slp => [0x00C5]
  | .swi => [0x00C6]
  | .rti => [0x00C7]
  | .undefC8 lo => [(0x32#14 ++ lo : BitVec 16)]
  | .mmr rv ra => encRegs 0xCC rv ra 0
  | .mmw rv ra => encRegs 0xCD rv ra 0
  | .mml m => encJmp 0xCE m
  | .mms m => encJmp 0xCF m
  | .undefE0 lo => [(7#11 ++ lo : BitVec 16)]

/-- The bytes of words in memory order (20_memory.md R62). -/
def bytesOf : List Word → List Byte
  | [] => []
  | w :: ws => loByte w :: hiByte w :: bytesOf ws

end Sys2Proof
end

