-- ==== Sys2Proof/Config.lean ====
section
/-! DEFINITION. What an implementation of the YCPU fixes (spec/00_scope.md R6, spec/92_eei_decisions.md section 1)
and the free values of the model.

The parameters of R6 that are plain data form `Params`, which State carries in its field `cfg`: no step changes
it, so a statement about every state is a statement about every value of every parameter (log entry 3).
The values the spec leaves open are `opaque` constants without a body, applied to a draw number (log entry 4) or to
everything the value may depend on. -/

namespace Sys2Proof

/-- The two kinds of internal memory bank (10_state.md R37). -/
inductive BankKind where
  | ram
  | rom
  deriving DecidableEq, Repr

/-- An internal bank: its kind and its number within that kind (10_state.md R37, 20_memory.md R61). -/
structure BankRef where
  kind  : BankKind
  index : Nat
  deriving DecidableEq, Repr

/-- The four floating-point operations (44_fpu.md R243). -/
inductive FpOp where
  | add
  | sub
  | mul
  | div
  deriving DecidableEq, Repr

/-- The answer of the floating-point unit: a 32-bit pattern, or an error with its divide-by-zero mark (44_fpu.md R243). -/
inductive FpResult where
  | ok (f : BitVec 32)
  | err (divZero : Bool)
  deriving DecidableEq, Repr

/-- The two instances of the parameter FpArith the model carries (44_fpu.md R243, log entry 20): a function of which
only the constraints C-a to C-e are known, and the default instance the rule recommends. -/
inductive FpInstance where
  | unspecified
  | binary32
  deriving DecidableEq, Repr

/-- One reading of the real time clock, each field within the range the source prints (60_exceptions.md R391). -/
structure RtcTime where
  year   : Fin 256
  month  : Fin 12
  day    : Fin 32
  hour   : Fin 24
  minute : Fin 60
  second : Fin 60
  milli  : Fin 1001
  deriving DecidableEq, Repr, Inhabited

/-- The tick setting of the real time clock: disabled, or `2 ^ log2` Clock interrupts per second, at most 1024
(60_exceptions.md R392). -/
inductive Tick where
  | disabled
  | rate (log2 : Fin 11)
  deriving DecidableEq, Repr

/-- What the environment presents at one step boundary (10_state.md R38, 60_exceptions.md R380 to R387; log entry 7):
the RESET line, the bus indices whose devices assert IRQ, whether the RTC ticks, whether the bus has changed,
whether the DEBUG line rises, and which of several eligible events is taken (AsyncPriority, log entry 8). -/
structure Signals where
  reset      : Bool
  irqs       : List Nat
  clockTick  : Bool
  busRefresh : Bool
  debugRise  : Bool
  pick       : Nat
  deriving DecidableEq, Repr

/-- One thing the processor did on the Hardware Bus (20_memory.md R74, 49_processor.md R326 to R328; log entry 10). -/
inductive BusEvent where
  | read (dev bank off : Nat)
  | write (dev bank off : Nat) (b : Byte)
  | count
  | query (i : Word)
  | message (r0 r1 r2 r3 : Word)
  deriving DecidableEq, Repr

/-- The parameters of 00_scope.md R6. NRAM is `16 + extraRam` and NROM is `1 + extraRom`, so that the lower bounds of
R6 and D2 hold by construction (log entry 22). -/
structure Params where
  /-- NRAM - 16. -/
  extraRam   : Nat
  /-- NROM - 1. -/
  extraRom   : Nat
  /-- RomImage: the bytes of internal ROM that are not $00, by address bank * 4096 + offset. -/
  rom        : List Host.Cell
  /-- Dev0Bank: the internal bank a 12-bit bank index of device 0 selects; an index without a pair selects none. -/
  dev0       : List (Nat × BankRef)
  /-- FpArith. -/
  fp         : FpInstance
  /-- BRANCH_BASE is 2 when true and 0 when false. -/
  branchNext : Bool
  /-- SWI_GATED_BY_I. -/
  swiGated   : Bool
  deriving DecidableEq, Repr

/-- NRAM, at least 16 (00_scope.md R6). -/
abbrev Params.nram (p : Params) : Nat := 16 + p.extraRam

/-- NROM, at least 1 (00_scope.md R6, D2). -/
abbrev Params.nrom (p : Params) : Nat := 1 + p.extraRom

/-- DESIGN CHOICE (log entry 3), unsafe for claims about runs from reset: the parameter values of
spec/95_test_vectors.md section 0. -/
def Params.testVectors : Params where
  extraRam   := 0
  extraRom   := 0
  rom        := []
  dev0       := (List.range 16).map fun b => (b, BankRef.mk .ram b)
  fp         := .binary32
  branchNext := false
  swiGated   := true

/-- A free word by draw number: the bits of FL, PS and the HWQ $04 answers that the spec draws as `.`
(10_state.md R43, 49_processor.md R330; log entries 4 and 6). -/
opaque Config.freeWord : Nat → Word

/-- The unknown contents of internal RAM that nothing has written, by epoch and RAM address
(10_state.md R42, 93_implementation_defined.md U1, U22; log entry 2). -/
opaque Config.ramUnknown : Nat → Nat → Byte

/-- The unknown register values after a RESET, by draw number and register slot (U1, U22; log entry 15). -/
opaque Config.resetWord : Nat → Nat → Word

/-- What a read of a location that does not exist returns, by draw number (20_memory.md R74, U6; log entry 11). -/
opaque Config.absentByte : Nat → Byte

/-- What a device supplies on a byte read: draw number, bus history, bus index, bank, offset
(20_memory.md R74, 60_exceptions.md R395; log entry 10). -/
opaque Config.deviceByte : Nat → List BusEvent → Nat → Nat → Nat → Byte

/-- Bus.count, 0 to 256 (49_processor.md R326; log entry 10). -/
opaque Config.busCount : Nat → List BusEvent → Fin 257

/-- Bus.query: draw number, bus history, queried index, result register (49_processor.md R327; log entry 10). -/
opaque Config.busQuery : Nat → List BusEvent → Word → Fin 4 → Word

/-- The reply of HWQ $02 in R0 to R3: draw number, bus history (the message included), internal RAM, result register
(49_processor.md R328; log entry 12). -/
opaque Config.messageReply : Nat → List BusEvent → List Host.Cell → Fin 4 → Word

/-- The bytes of internal RAM that the device of an HWQ $02 writes: draw number, bus history (the message included),
internal RAM (49_processor.md R328, 20_memory.md R100; log entry 12). -/
opaque Config.messageWrites : Nat → List BusEvent → List Host.Cell → List Host.Cell

/-- The next reading of the real time clock, by draw number (60_exceptions.md R393; log entry 14). -/
opaque Config.rtcNow : Nat → RtcTime

/-- The open floating-point arithmetic: a result pattern, or none for bad input (44_fpu.md R243; log entry 20). -/
opaque Config.fpOpen : FpOp → BitVec 32 → BitVec 32 → Option (BitVec 32)

end Sys2Proof
end

