-- ==== Sys2Proof/Machine/State.lean ====
section
/-! DEFINITION. The state of the YCPU as plain data (spec/10_state.md), its fault and refusal reasons, its accessors and
the state after reset (spec/10_state.md R42, spec/70_reset_and_hazards.md R420). INVENTORY.md lists every field with
its rule and its reset value. -/

namespace Sys2Proof.Machine

/-- FL bits 15 to 12 (10_state.md R24). Bits 11 to 0 are not storage (R43). -/
structure Flags where
  N : Bool
  Z : Bool
  C : Bool
  V : Bool
  deriving DecidableEq, Repr

/-- PS bits 15 to 8 (10_state.md R25). Bits 7 to 0 are not storage (R43). -/
structure Status where
  S : Bool
  M : Bool
  I : Bool
  R : Bool
  Q : Bool
  U : Bool
  W : Bool
  E : Bool
  deriving DecidableEq, Repr

/-- Bytes by address, in one canonical form: addresses strictly rising, no entry equal to what an unlisted address
reads as. -/
abbrev Memory := List Host.Cell

/-- The state of the machine. -/
structure State where
  /-- R0 to R7 (R20). -/
  regs     : Vector Word 8
  /-- FL (R24). -/
  fl       : Flags
  /-- PS (R25). -/
  ps       : Status
  /-- PS has not been written since Reset, so that PS[7:0] reads zero (R43). -/
  psClean  : Bool
  /-- PC (R30). -/
  pc       : Word
  /-- IA (R27). -/
  ia       : Word
  /-- II (R28). -/
  ii       : Word
  /-- P2 (R29). -/
  p2       : Word
  /-- SSP (R32). -/
  ssp      : Word
  /-- USP (R32). -/
  usp      : Word
  /-- The MMU cache (R36). -/
  mmu      : Vector Word 32
  /-- The internal bank map (R37). -/
  im       : Vector BankRef 16
  /-- The bytes of internal RAM that have been written, by address bank * 4096 + offset (20_memory.md R61, R74). -/
  ram      : Memory
  /-- Which unknown contents the other bytes of internal RAM have (model's own; log entry 2). -/
  ramEpoch : Nat
  /-- Halted by SLP (R40). -/
  halted   : Bool
  /-- The tick setting of the real time clock (R39). -/
  tick     : Tick
  /-- What the real time clock answers when it is next read (R39, 60_exceptions.md R393; log entry 14). -/
  rtcTime  : RtcTime
  /-- What the environment presents at the coming step boundaries, the next one first; nothing is signalled after the last
  (R38, 60_exceptions.md R383; log entry 7). An environment that goes on without end is `Environment`. -/
  inputs   : List Signals
  /-- What the processor did on the Hardware Bus, latest first (model's own; log entry 10). -/
  bus      : List BusEvent
  /-- How many free values have been drawn (model's own; log entry 4). -/
  free     : Nat
  /-- The parameters of 00_scope.md R6; no step changes them (log entry 3). -/
  cfg      : Params
  deriving DecidableEq, Repr

/-- Why the machine would stop with a fault. No rule of the spec stops it: every error is an interrupt, which is taken, so
no meaning raises a fault and the type has no constructor (log entry 21; safe). -/
inductive Fault where
  deriving DecidableEq, Repr

/-- Why a step has no successor state. -/
inductive Refusal where
  /-- Raised by an arm of exec whose instruction has no meaning yet; none is left (safe). -/
  | notModelled (mnemonic : String)
  /-- Raised by HWQ with an operation index $05 to $FF in Supervisor mode, whose effect the spec does not give and tells a
  model to refuse (49_processor.md R323, 93_implementation_defined.md U8; log entry 13; safe). -/
  | hwqOperation (op : BitVec 8)
  deriving DecidableEq, Repr

/-- The default internal bank map: bank 0 is ROM bank $00, or RAM bank $00 when `r` (PS.R) is set; bank k is RAM bank k
(20_memory.md R78). -/
def defaultMap (r : Bool) : Vector BankRef 16 :=
  #v[⟨if r then .ram else .rom, 0⟩, ⟨.ram, 1⟩, ⟨.ram, 2⟩, ⟨.ram, 3⟩, ⟨.ram, 4⟩, ⟨.ram, 5⟩, ⟨.ram, 6⟩, ⟨.ram, 7⟩,
    ⟨.ram, 8⟩, ⟨.ram, 9⟩, ⟨.ram, 10⟩, ⟨.ram, 11⟩, ⟨.ram, 12⟩, ⟨.ram, 13⟩, ⟨.ram, 14⟩, ⟨.ram, 15⟩]

/-- PS after Reset, $8000: Supervisor mode, everything else off (R420). -/
def Status.afterReset : Status :=
  { S := true, M := false, I := false, R := false, Q := false, U := false, W := false, E := false }

namespace State

/-- The machine right after reset (R42, R420), with the parameters of log entry 3. The registers the spec gives no value
hold zero (log entry 1, unsafe); PC is the first word of the ROM image, whose bytes are $00. -/
def reset : State where
  regs     := Vector.replicate 8 0
  fl       := { N := false, Z := false, C := false, V := false }
  ps       := Status.afterReset
  psClean  := true
  pc       := 0
  ia       := 0
  ii       := 0
  p2       := 0
  ssp      := 0
  usp      := 0
  mmu      := Vector.replicate 32 0
  im       := defaultMap false
  ram      := []
  ramEpoch := 0
  halted   := false
  tick     := .disabled
  rtcTime  := Config.rtcNow 0
  inputs   := []
  bus      := []
  free     := 1
  cfg      := Params.testVectors

/-- The value of general register `r` (R20). -/
def reg (s : State) (r : Reg) : Word := s.regs.get r

/-- A write of general register `r` (R20). -/
def setReg (s : State) (r : Reg) (v : Word) : State := { s with regs := s.regs.set r v }

/-- A write of the flags. -/
def setFl (s : State) (v : Flags) : State := { s with fl := v }

/-- A write of the stored bits of PS; from now on PS[7:0] is unspecified (R43). The effect of a changed M on the bank map is
in `writePs`. -/
def setPs (s : State) (v : Status) : State := { s with ps := v, psClean := false }

/-- A write of PC. -/
def setPc (s : State) (v : Word) : State := { s with pc := v }

/-- A write of IA. -/
def setIa (s : State) (v : Word) : State := { s with ia := v }

/-- A write of II. -/
def setIi (s : State) (v : Word) : State := { s with ii := v }

/-- A write of P2. -/
def setP2 (s : State) (v : Word) : State := { s with p2 := v }

/-- A write of SSP. -/
def setSsp (s : State) (v : Word) : State := { s with ssp := v }

/-- A write of USP. -/
def setUsp (s : State) (v : Word) : State := { s with usp := v }

/-- The word `k` of the MMU cache (R36). -/
def mmuWord (s : State) (k : Fin 32) : Word := s.mmu.get k

/-- A write of word `k` of the MMU cache (R36). -/
def setMmu (s : State) (k : Fin 32) (v : Word) : State := { s with mmu := s.mmu.set k v }

/-- The entry `k` of the internal bank map (R37). -/
def bank (s : State) (k : Fin 16) : BankRef := s.im.get k

/-- A write of entry `k` of the internal bank map (R37). -/
def setBank (s : State) (k : Fin 16) (b : BankRef) : State := { s with im := s.im.set k b }

/-- A write of the whole internal bank map. -/
def setIm (s : State) (m : Vector BankRef 16) : State := { s with im := m }

/-- A write of internal RAM as a whole. -/
def setRam (s : State) (m : Memory) : State := { s with ram := m }

/-- A write of the halted bit (R40). -/
def setHalted (s : State) (b : Bool) : State := { s with halted := b }

/-- A write of the tick setting (R39). -/
def setTick (s : State) (t : Tick) : State := { s with tick := t }

/-- A new time for the next reading of the real time clock. -/
def setRtcTime (s : State) (t : RtcTime) : State := { s with rtcTime := t }

/-- The inputs of the later step boundaries. -/
def setInputs (s : State) (l : List Signals) : State := { s with inputs := l }

/-- The bus history with one event more. -/
def logBus (s : State) (e : BusEvent) : State := { s with bus := e :: s.bus }

/-- One free value more has been drawn. -/
def draw (s : State) : State := { s with free := s.free + 1 }

/-- SP: SSP in Supervisor mode and USP in User mode, by PS.S at this moment (R33). -/
def sp (s : State) : Word := if s.ps.S then s.ssp else s.usp

/-- A write of SP (R33). -/
def setSp (s : State) (v : Word) : State := if s.ps.S then s.setSsp v else s.setUsp v

end State

end Sys2Proof.Machine
end

