-- ==== Sys2Proof/Machine/Ops.lean ====
section
/-! DEFINITION. The named operations of the machine: memory (spec/20_memory.md R70 to R89), the stack (R75), the status
registers (spec/10_state.md R24, R25, R43), taking an interrupt (spec/60_exceptions.md R370) and returning from one
(spec/46_interrupt_instr.md R271), Reset (spec/70_reset_and_hazards.md R420), and the frame every instruction runs in
(spec/00_scope.md R11). -/

namespace Sys2Proof.Machine

-- Bytes by address.

/-- The byte listed at `a`, or none: an address that is not listed has no value of its own here. -/
def Memory.read : Memory → Nat → Option Byte
  | [], _ => none
  | (k, b) :: m, a => if k = a then some b else Memory.read m a

/-- The list with byte `b` at `a`, addresses still rising. -/
def Memory.put : Memory → Nat → Byte → Memory
  | [], a, b => [(a, b)]
  | (k, c) :: m, a, b =>
    if a < k then (a, b) :: (k, c) :: m
    else if a = k then (a, b) :: m
    else (k, c) :: Memory.put m a b

/-- The list without an entry at `a`. -/
def Memory.erase : Memory → Nat → Memory
  | [], _ => []
  | (k, c) :: m, a => if a = k then m else (k, c) :: Memory.erase m a

/-- A write that keeps the canonical form, where an unlisted address reads as `dflt` (none: as no value). -/
def Memory.write (dflt : Option Byte) (m : Memory) (a : Nat) (b : Byte) : Memory :=
  if some b = dflt then m.erase a else m.put a b

/-- The canonical form: addresses strictly rising, and no entry equal to what an unlisted address reads as. -/
abbrev Memory.wf (dflt : Option Byte) (m : Memory) : Prop :=
  m.Pairwise (fun c d => c.1 < d.1) ∧ ∀ c ∈ m, some c.2 ≠ dflt

/-- What an unlisted byte of internal RAM reads as in the list: no value. The machine then reads an unknown byte that stays
the same until it is written (U1; log entry 2). -/
abbrev ramDefault : Option Byte := none

/-- What an unlisted byte of internal ROM reads as: $00 (log entry 3). -/
abbrev romDefault : Option Byte := some 0

/-- The byte of internal RAM at address bank * 4096 + offset. -/
def State.ramByte (s : State) (a : Nat) : Byte := (s.ram.read a).getD (Config.ramUnknown s.ramEpoch a)

/-- The byte of internal ROM at address bank * 4096 + offset (20_memory.md R74: RomImage). -/
def State.romByte (s : State) (a : Nat) : Byte := (Memory.read s.cfg.rom a).getD 0

-- Physical locations (20_memory.md R73, R74).

/-- Where a byte lies. -/
inductive Loc where
  /-- Internal RAM, by address bank * 4096 + offset. -/
  | ram (addr : Nat)
  /-- Internal ROM, by address bank * 4096 + offset. -/
  | rom (addr : Nat)
  /-- A bank of a device on the Hardware Bus. -/
  | device (dev bank off : Nat)
  /-- A location that does not exist (U6). -/
  | absent
  deriving DecidableEq, Repr

/-- Byte `off` of an internal bank; a bank the chip does not have is no location (20_memory.md R74). -/
def internalLoc (cfg : Params) (b : BankRef) (off : BitVec 12) : Loc :=
  match b.kind with
  | .ram => if b.index < cfg.nram then .ram (b.index * 4096 + off.toNat) else .absent
  | .rom => if b.index < cfg.nrom then .rom (b.index * 4096 + off.toNat) else .absent

/-- The byte at a physical address `dev : bank : off` (20_memory.md R83); device 0 is the processor's own memory by Dev0Bank
(R84). -/
def deviceLoc (cfg : Params) (dev bank : Nat) (off : BitVec 12) : Loc :=
  if dev = 0 then
    match cfg.dev0.lookup bank with
    | some b => internalLoc cfg b off
    | none => .absent
  else .device dev bank off.toNat

/-- `PhysRead` (20_memory.md R74): RAM and ROM without side effects, a device by its oracle, what does not exist as any
value. -/
def physRead (p : Loc) (s : State) : Byte × State :=
  match p with
  | .ram a => (s.ramByte a, s)
  | .rom a => (s.romByte a, s)
  | .device d b o => (Config.deviceByte s.free s.bus d b o, (s.logBus (.read d b o)).draw)
  | .absent => (Config.absentByte s.free, s.draw)

/-- `PhysWrite` (20_memory.md R74): RAM stores the byte, ROM and what does not exist drop it (R77), a device is handed it. -/
def physWrite (p : Loc) (b : Byte) (s : State) : State :=
  match p with
  | .ram a => s.setRam (s.ram.write ramDefault a b)
  | .rom _ => s
  | .device d k o => s.logBus (.write d k o b)
  | .absent => s

-- Interrupt causes and the results of an operation.

/-- The kind of an access (20_memory.md R73). -/
inductive Access where
  | read
  | write
  | exec
  deriving DecidableEq, Repr

/-- The interrupts the machine takes through its table, with what they record (60_exceptions.md R362). Reset does not run
the sequence (R386); StackFault and $8 to $B are never raised (R366, R369). -/
inductive Cause where
  | clock
  | divideByZero
  | fpuError
  | bankFault (addr : Word) (u w e : Bool)
  | unprivOpcode
  | undefOpcode
  | hwi
  | busRefresh
  | debugQuery
  | swi
  deriving DecidableEq, Repr

/-- The index in the vector table (60_exceptions.md R362). -/
def Cause.index : Cause → Word
  | .clock => 0x1
  | .divideByZero => 0x2
  | .fpuError => 0x3
  | .bankFault _ _ _ _ => 0x5
  | .unprivOpcode => 0x6
  | .undefOpcode => 0x7
  | .hwi => 0xC
  | .busRefresh => 0xD
  | .debugQuery => 0xE
  | .swi => 0xF

/-- What an operation of a rule comes to: a value and a state, or `raise` with the state the rule has made so far
(00_scope.md R11, 60_exceptions.md R372). -/
inductive Res (α : Type) where
  | ok (a : α) (s : State)
  | raise (c : Cause) (s : State)

/-- The rule goes on unless the operation raised (00_scope.md R11: `raise` abandons the rule). -/
def Res.bind {α β : Type} (r : Res α) (f : α → State → Res β) : Res β :=
  match r with
  | .ok a s => f a s
  | .raise c s => .raise c s

/-- The state a result leaves, raised or not. -/
def Res.state {α : Type} (r : Res α) : State :=
  match r with
  | .ok _ s => s
  | .raise _ s => s

/-- The operation for every element in order; the rule is abandoned at the first that raises. -/
def forEach {α : Type} (f : α → State → Res Unit) : List α → State → Res Unit
  | [], s => .ok () s
  | a :: l, s => (f a s).bind fun _ t => forEach f l t

-- Translation (20_memory.md R73).

/-- The index of `MMU[2k]`. -/
def mmuLow (k : Fin 16) : Fin 32 := ⟨2 * k.val, by omega⟩

/-- The index of `MMU[2k+1]`. -/
def mmuHigh (k : Fin 16) : Fin 32 := ⟨2 * k.val + 1, by omega⟩

/-- `Translate(addr, kind)` (20_memory.md R73): by the bank map while PS.M = 0, by the MMU words with their checks, P first,
then S, W, E together, while PS.M = 1. -/
def translate (s : State) (a : Word) (k : Access) : Except Cause Loc :=
  let w0 := s.mmuWord (mmuLow (bankOf a))
  let w1 := s.mmuWord (mmuHigh (bankOf a))
  let u := !s.ps.S && w1.getLsbD 15
  let w := decide (k = .write)
  let e := decide (k = .exec)
  if s.ps.M = false then .ok (internalLoc s.cfg (s.bank (bankOf a)) (offsetOf a))
  else if w1.getLsbD 12 then .error (.bankFault a false false false)
  else if u || (w && w1.getLsbD 14) || (e && w1.getLsbD 13) then .error (.bankFault a u w e)
  else .ok (deviceLoc s.cfg (w1.extractLsb' 0 4 ++ w0.extractLsb' 12 4 : BitVec 8).toNat (w0.extractLsb' 0 12).toNat
    (offsetOf a))

/-- Both bytes of a 16-bit access, low byte's check first, before either moves (20_memory.md R65). -/
def translatePair (s : State) (a : Word) (k : Access) : Except Cause (Loc × Loc) :=
  match translate s a k with
  | .error c => .error c
  | .ok p0 =>
    match translate s (a + 1) k with
    | .error c => .error c
    | .ok p1 => .ok (p0, p1)

/-- The A bit of the bank of `a` while PS.M = 1 (`SetA`, 20_memory.md R71, R86). -/
def setAccessed (a : Word) (s : State) : State :=
  if s.ps.M then s.setMmu (mmuHigh (bankOf a)) (s.mmuWord (mmuHigh (bankOf a)) ||| 0x0800) else s

-- Memory access (20_memory.md R70 to R72).

/-- `MemRead(addr, 1)`. -/
def readByte (k : Access) (a : Word) (s : State) : Res Byte :=
  match translate s a k with
  | .error c => .raise c s
  | .ok p => .ok (physRead p s).1 (physRead p s).2

/-- `MemRead(addr, 2)` as its two bytes, the low one first: `k` is `read` for data and `exec` for `Fetch16` (R70, R72). -/
def readPair (k : Access) (a : Word) (s : State) : Res (Byte × Byte) :=
  match translatePair s a k with
  | .error c => .raise c s
  | .ok p =>
    let lo := physRead p.1 s
    let hi := physRead p.2 lo.2
    .ok (lo.1, hi.1) hi.2

/-- `MemRead(addr, 2)` as a word (R62, R70). -/
def readWord (k : Access) (a : Word) (s : State) : Res Word :=
  (readPair k a s).bind fun b t => .ok (wordOf b.1 b.2) t

/-- `MemWrite(addr, 1, v)` (R71). -/
def writeByte (a : Word) (v : Byte) (s : State) : Res Unit :=
  match translate s a .write with
  | .error c => .raise c s
  | .ok p => .ok () (physWrite p v (setAccessed a s))

/-- `MemWrite(addr, 2, v)` with the two bytes of `v` (R71): the A bits, then the low byte, then the high byte. -/
def writePair (a : Word) (lo hi : Byte) (s : State) : Res Unit :=
  match translatePair s a .write with
  | .error c => .raise c s
  | .ok p => .ok () (physWrite p.2 hi (physWrite p.1 lo (setAccessed (a + 1) (setAccessed a s))))

/-- `MemWrite(addr, 2, v)` (R71). -/
def writeWord (a v : Word) (s : State) : Res Unit := writePair a (loByte v) (hiByte v) s

-- The stack (20_memory.md R75, 10_state.md R34).

/-- `Push16` of the word with the bytes `lo` and `hi`; where the write raises, SP is not moved (60_exceptions.md R372). -/
def pushPair (lo hi : Byte) (s : State) : Res Unit :=
  (writePair (s.sp - 2) lo hi s).bind fun _ t => .ok () (t.setSp (s.sp - 2))

/-- `Push16(v)`. -/
def push (v : Word) (s : State) : Res Unit := pushPair (loByte v) (hiByte v) s

/-- `Pop16()` as its two bytes, the low one first; where the read raises, SP is not moved (60_exceptions.md R372). -/
def popPair (s : State) : Res (Byte × Byte) :=
  (readPair .read s.sp s).bind fun b t => .ok b (t.setSp (s.sp + 2))

/-- `Pop16()` as a word. -/
def pop (s : State) : Res Word := (popPair s).bind fun b t => .ok (wordOf b.1 b.2) t

/-- The 32 MMU words read from address `a` up, in rising order, each effective at once (47_jump_call.md R286,
49_processor.md R338). -/
def loadMmu (a : Word) (s : State) : Res Unit :=
  forEach (fun i t => (readWord .read (a + BitVec.ofNat 16 (2 * i.val)) t).bind fun v u => .ok () (u.setMmu i v))
    (List.finRange 32) s

-- FL and PS as words (10_state.md R24, R25, R43).

/-- The word software reads as FL: the flags, and free values in bits 11 to 0 (R43). -/
def flagsWord (f : Flags) (low : BitVec 12) : Word :=
  (BitVec.ofBool f.N ++ BitVec.ofBool f.Z ++ BitVec.ofBool f.C ++ BitVec.ofBool f.V ++ low : BitVec 16)

/-- A read of FL: bits 11 to 0 are a fresh free value each time (R43, U2; log entry 4). -/
def readFl (s : State) : Word × State := (flagsWord s.fl ((Config.freeWord s.free).extractLsb' 0 12), s.draw)

/-- The flags in the high byte of a word written to FL; its other bits are ignored (R43). -/
def flagsOf (hi : Byte) : Flags :=
  { N := hi.getLsbD 7, Z := hi.getLsbD 6, C := hi.getLsbD 5, V := hi.getLsbD 4 }

/-- PS bits 15 to 8 as a byte (R25). -/
def statusByte (p : Status) : Byte :=
  (BitVec.ofBool p.S ++ BitVec.ofBool p.M ++ BitVec.ofBool p.I ++ BitVec.ofBool p.R ++
    BitVec.ofBool p.Q ++ BitVec.ofBool p.U ++ BitVec.ofBool p.W ++ BitVec.ofBool p.E : BitVec 8)

/-- The status in the high byte of a word written to PS; its low byte is ignored (R43). -/
def statusOf (hi : Byte) : Status :=
  { S := hi.getLsbD 7, M := hi.getLsbD 6, I := hi.getLsbD 5, R := hi.getLsbD 4
    Q := hi.getLsbD 3, U := hi.getLsbD 2, W := hi.getLsbD 1, E := hi.getLsbD 0 }

/-- A read of PS[7:0]: zero while PS has not been written since Reset, else a fresh free value (R43, U2; log entries 4, 5). -/
def readPsLow (s : State) : Byte × State :=
  if s.psClean then (0, s) else (loByte (Config.freeWord s.free), s.draw)

/-- A write of PS as a whole: where M changes, the bank map goes back to its defaults by the new R (20_memory.md R79). -/
def writePs (p : Status) (s : State) : State :=
  if p.M = s.ps.M then s.setPs p else (s.setPs p).setIm (defaultMap p.R)

-- Taking an interrupt and returning from one.

/-- PS in the handler (60_exceptions.md R370 steps 2 and 3, R373): S set, M clear, Q set for a hardware interrupt, U, W, E
written for a bank fault. -/
def Cause.status (c : Cause) (p : Status) : Status :=
  match c with
  | .hwi => { p with S := true, M := false, Q := true }
  | .bankFault _ u w e => { p with S := true, M := false, U := u, W := w, E := e }
  | _ => { p with S := true, M := false }

/-- The bank map in the handler (60_exceptions.md R370 step 2, 20_memory.md R79): entry 0 by PS.R; the others back to their
defaults where M was set. -/
def entryMap (p : Status) (m : Vector BankRef 16) : Vector BankRef 16 :=
  if p.M then defaultMap p.R else m.set 0 ⟨if p.R then .ram else .rom, 0⟩

/-- What a bank fault records in P2 (60_exceptions.md R370 step 3). -/
def Cause.record (c : Cause) (s : State) : State :=
  match c with
  | .bankFault a _ _ _ => s.setP2 a
  | _ => s

/-- The interrupt sequence (60_exceptions.md R370) with the return address of R371. The pushes and the vector read run with
PS.M = 0 and cannot raise (R375), so the states of their results are taken as they are. -/
def takeInterrupt (c : Cause) (ret : Word) (s : State) : State :=
  let saved := statusByte s.ps
  let low := readPsLow s
  let s1 := c.record ((low.2.setPs (c.status s.ps)).setIm (entryMap s.ps s.im))
  let s2 := (pushPair low.1 saved s1).state
  let s3 := (push ret s2).state
  match readWord .read (s3.ia + 2 * c.index) s3 with
  | .ok v t => (t.setPc v).setHalted false
  | .raise _ t => t.setHalted false

/-- What RTI makes of a popped PS: Q, U, W and E cleared (46_interrupt_instr.md R271). -/
def Status.returned (p : Status) : Status := { p with Q := false, U := false, W := false, E := false }

/-- The return from an interrupt (46_interrupt_instr.md R271, 60_exceptions.md R376): PC popped, then PS. -/
def returnFromInterrupt (s : State) : Res Unit :=
  (pop s).bind fun p t =>
  (popPair t).bind fun q u =>
  .ok () ((writePs (statusOf q.2).returned u).setPc p)

/-- Reset (70_reset_and_hazards.md R420): tick disabled, PS $8000, IA 0, the default bank map, not halted, PC from the word at
$0000 under that map, nothing pushed. What R420 does not assign is unspecified after any Reset (R42, U1, U22): registers and
MMU words become free values, and RAM has unknown contents (log entry 15). -/
def performReset (s : State) : State :=
  let n := s.free
  let t : State :=
    { s with
      regs     := Vector.ofFn fun i => Config.resetWord n i.val
      fl       := flagsOf (hiByte (Config.resetWord n 8))
      ps       := Status.afterReset
      psClean  := true
      ia       := 0
      ii       := Config.resetWord n 9
      p2       := Config.resetWord n 10
      ssp      := Config.resetWord n 11
      usp      := Config.resetWord n 12
      mmu      := Vector.ofFn fun k => Config.resetWord n (16 + k.val)
      im       := defaultMap false
      ram      := []
      ramEpoch := n
      halted   := false
      tick     := .disabled
      free     := n + 1 }
  match readWord .read 0 t with
  | .ok v u => u.setPc v
  | .raise _ u => u

-- The frame of an instruction (00_scope.md R11).

/-- `A`, the address of the instruction: PC without its low bit (20_memory.md R66). -/
def instrAddr (s : State) : Word := s.pc &&& 0xFFFE

/-- `npc` of an instruction of `len` bytes that began in state `s` (R11, 10_state.md R30, R31). -/
def npc (len : Nat) (s : State) : Word := instrAddr s + BitVec.ofNat 16 len

/-- `pc <- npc` in state `t`, for an instruction of `len` bytes that began in state `s` (R11 step 5). -/
def next (len : Nat) (s t : State) : State := t.setPc (npc len s)

/-- The return address an instruction's interrupt pushes: SWI the instruction after it, every error the instruction itself
(60_exceptions.md R371). -/
def returnPc (c : Cause) (s : State) : Word :=
  match c with
  | .swi => npc 2 s
  | _ => instrAddr s

/-- The end of an instruction that began in state `s`: its next state, or the interrupt it raised, taken. -/
def finish (s : State) (r : Res Unit) : Host.Outcome State Fault Refusal :=
  match r with
  | .ok _ t => .next t
  | .raise c t => .next (takeInterrupt c (returnPc c s) t)

/-- `RequirePriv()` before the rest of a rule (00_scope.md R12). -/
def requirePriv (s : State) (k : Res Unit) : Res Unit :=
  if s.ps.S then k else .raise .unprivOpcode s

/-- An instruction that only raises UndefOpcode (60_exceptions.md R368). -/
def undefined (s : State) : Host.Outcome State Fault Refusal := finish s (.raise .undefOpcode s)

end Sys2Proof.Machine
end

