-- ==== Sys2Proof/Machine/Fetch.lean ====
section
/-! DEFINITION. Fetching an instruction (spec/00_scope.md R11 steps 3 and 4, spec/20_memory.md R66, R72) and placing one
where it is fetched. -/

namespace Sys2Proof.Machine

/-- The words of the privileged instructions that may have a next word: JMU, MML, MMS (60_exceptions.md R367). -/
def privilegedOperand (w : Word) : Bool :=
  loByte w == 0xC2 || loByte w == 0xCE || loByte w == 0xCF

/-- The instruction at `A`: its word and, where it has one, the next word, both as execute accesses. In User mode a
privileged instruction raises UnprivOpcode before its next word is fetched (60_exceptions.md R389), so that word is not
fetched here (log entry 18). -/
def fetchInstr (s : State) : Res Instr :=
  (readWord .exec (instrAddr s) s).bind fun w t =>
    if needsNextWord w && (s.ps.S || !privilegedOperand w) then
      (readWord .exec (instrAddr s + 2) t).bind fun nw u => .ok (decodeWords w nw) u
    else .ok (decodeWords w 0) t

/-- Byte `b` placed at logical address `a` from outside the machine, in the internal RAM or ROM a fetch at `a` reads; nothing
where the fetch reads neither (log entry 19). -/
def placeByte (a : Word) (b : Byte) (s : State) : State :=
  match translate s a .exec with
  | .ok (.ram k) => s.setRam (s.ram.write ramDefault k b)
  | .ok (.rom k) => { s with cfg := { s.cfg with rom := Memory.write romDefault s.cfg.rom k b } }
  | _ => s

/-- Bytes placed from logical address `a` up. -/
def placeBytes (a : Word) : List Byte → State → State
  | [], s => s
  | b :: l, s => placeBytes (a + 1) l (placeByte a b s)

end Sys2Proof.Machine
end

