-- ==== Sys2Proof/Machine/Async.lean ====
section
/-! DEFINITION. The asynchronous events of a step boundary (spec/60_exceptions.md R380 to R387). -/

namespace Sys2Proof.Machine

/-- The lowest bus index 1 to 255 whose device asserts IRQ (R381). -/
def lowestIrq (irqs : List Nat) : Option Nat := ((List.range 256).drop 1).find? fun d => irqs.contains d

/-- The asynchronous events of a step boundary; Reset is not one of them (R386, R387). -/
def asyncCauses : List Cause := [.clock, .hwi, .busRefresh, .debugQuery]

/-- `signalled(e, step)` (R383): the environment signals the event. The clock signals none while its tick is disabled
(R392; log entry 9). -/
def signalled (g : Signals) (s : State) (c : Cause) : Bool :=
  match c with
  | .clock => g.clockTick && s.tick != .disabled
  | .hwi => (lowestIrq g.irqs).isSome
  | .busRefresh => g.busRefresh
  | .debugQuery => g.debugRise
  | _ => false

/-- PS lets the event be taken: a hardware interrupt while I = 1 and Q = 0 (R380, R381), the others always (R382, R384, R385). -/
def unmasked (s : State) (c : Cause) : Bool :=
  match c with
  | .hwi => s.ps.I && !s.ps.Q
  | _ => true

/-- The events that may be taken at this boundary. -/
def eligible (g : Signals) (s : State) : List Cause := asyncCauses.filter fun c => signalled g s c && unmasked s c

/-- AsyncPriority (R387): the environment picks one of the eligible events (log entry 8). -/
def pickEvent (g : Signals) (s : State) : Option Cause :=
  (eligible g s)[g.pick % (eligible g s).length]?

/-- II as the hardware interrupt check leaves it (R381). -/
def recordIrq (c : Cause) (g : Signals) (s : State) : State :=
  match c with
  | .hwi => s.setIi (BitVec.ofNat 16 ((lowestIrq g.irqs).getD 0))
  | _ => s

/-- An event taken: the interrupt sequence with PC as the last instruction left it (R371, R380). -/
def takeEvent (c : Cause) (g : Signals) (s : State) : State := takeInterrupt c s.pc (recordIrq c g s)

end Sys2Proof.Machine
end

