-- ==== Sys2Proof/Machine/Flags.lean ====
section
/-! DEFINITION. The results and flags of the computing instructions: each rule of spec/40_alu.md, spec/41_shift.md and
spec/42_bittest.md as a function from its operands and the old flags to its result and the new flags, computed with
unbounded integers and narrowed at the end (spec/00_scope.md R8, R13). -/

namespace Sys2Proof.Machine

/-- `NZ(r)`: N from bit 15, Z from zero (40_alu.md R161). -/
def Flags.nz (f : Flags) (r : Word) : Flags := { f with N := r.msb, Z := r == 0 }

/-- A signed result that does not fit 16 bits (40_alu.md R164: "outside -32768 .. 32767"). -/
def outside16 (t : Int) : Bool := decide (t < -32768 ∨ 32767 < t)

/-- C and V of an addition or subtraction with unbounded sum `t` and exact signed value `s` (40_alu.md R164, R165). -/
def sumFlags (t : Nat) (s : Int) (f : Flags) : Word × Flags :=
  (BitVec.ofNat 16 t, { f with C := decide (2 ^ 16 ≤ t), V := outside16 s }.nz (BitVec.ofNat 16 t))

/-- ADD (R164). -/
def addRule (a m : Word) (f : Flags) : Word × Flags :=
  sumFlags (a.toNat + m.toNat) (a.toInt + m.toInt) f

/-- ADC (R166). -/
def adcRule (a m : Word) (f : Flags) : Word × Flags :=
  sumFlags (a.toNat + m.toNat + f.C.toNat) (a.toInt + m.toInt + f.C.toNat) f

/-- SUB (R165): C is 1 for no borrow. -/
def subRule (a m : Word) (f : Flags) : Word × Flags :=
  sumFlags (a.toNat + (m ^^^ 0xFFFF).toNat + 1) (a.toInt - m.toInt) f

/-- SBC (R167). -/
def sbcRule (a m : Word) (f : Flags) : Word × Flags :=
  sumFlags (a.toNat + (m ^^^ 0xFFFF).toNat + f.C.toNat) (a.toInt - m.toInt - (1 - f.C.toNat)) f

/-- CMP (R178): the flags are the comparisons themselves; V is kept. -/
def cmpFlags (a m : Word) (f : Flags) : Flags :=
  { f with N := decide (m.toInt ≤ a.toInt), Z := decide (a = m), C := decide (m.toNat ≤ a.toNat) }

/-- LOD (R162). -/
def lodRule (_ m : Word) (f : Flags) : Word × Flags := (m, f.nz m)

/-- NEG (R179): C is kept. -/
def negRule (_ m : Word) (f : Flags) : Word × Flags := (0 - m, { f with V := m == 0x8000 }.nz (0 - m))

/-- AND (R174). -/
def andRule (a m : Word) (f : Flags) : Word × Flags := (a &&& m, f.nz (a &&& m))

/-- ORR (R175). -/
def orrRule (a m : Word) (f : Flags) : Word × Flags := (a ||| m, f.nz (a ||| m))

/-- EOR (R176). -/
def eorRule (a m : Word) (f : Flags) : Word × Flags := (a ^^^ m, f.nz (a ^^^ m))

/-- NOT (R177). -/
def notRule (_ m : Word) (f : Flags) : Word × Flags := (m ^^^ 0xFFFF, f.nz (m ^^^ 0xFFFF))

/-- MUL (R168): the 32-bit product; N cleared. -/
def mulRule (a m : Word) (f : Flags) : BitVec 32 × Flags :=
  let p := BitVec.ofNat 32 (a.toNat * m.toNat)
  (p, { f with N := false, Z := p == 0, C := p.extractLsb' 16 16 != 0 })

/-- MLI (R170): the signed product; C literally, so that a small negative product sets it. -/
def mliRule (a m : Word) (f : Flags) : BitVec 32 × Flags :=
  let p := BitVec.ofInt 32 (a.toInt * m.toInt)
  (p, { f with N := p.msb, Z := p == 0, C := p.extractLsb' 16 16 != 0 })

/-- DIV by a divisor that is not 0 (R169). -/
def divRule (a m : Word) (f : Flags) : Word × Flags :=
  let r := BitVec.ofNat 16 (a.toNat / m.toNat)
  (r, { f with N := false, Z := r == 0 })

/-- DVI by a divisor that is not 0 (R171): the quotient rounded toward zero; $8000 by $FFFF gives $8000 and V. -/
def dviRule (a m : Word) (f : Flags) : Word × Flags :=
  let r := BitVec.ofInt 16 (a.toInt.tdiv m.toInt)
  (r, { f with V := a == 0x8000 && m == 0xFFFF }.nz r)

/-- MOD by a divisor that is not 0 (R172). -/
def modRule (a m : Word) (f : Flags) : Word × Flags :=
  let r := BitVec.ofNat 16 (a.toNat % m.toNat)
  (r, f.nz r)

/-- MDI by a divisor that is not 0 (R173): the sign of the dividend. -/
def mdiRule (a m : Word) (f : Flags) : Word × Flags :=
  let r := BitVec.ofInt 16 (a.toInt - m.toInt * a.toInt.tdiv m.toInt)
  (r, f.nz r)

/-- LOD.8 (R180): the zero-extended byte, N from its bit 7. -/
def lod8Rule (m : Byte) (f : Flags) : Word × Flags := (m.setWidth 16, { f with N := m.msb, Z := m == 0 })

-- Shifts and rotates of `v` by `n` (41_shift.md); n is 0 to 15.

/-- ASL and LSL (R201, R202). -/
def aslRule (v : Word) (n : Nat) (f : Flags) : Word × Flags :=
  let t := v.toNat * 2 ^ n
  let r := BitVec.ofNat 16 t
  (r, { f with C := decide (2 ^ 16 ≤ t) }.nz r)

/-- The carry of a right shift: any bit shifted out was 1 (R203, R204). -/
def rightCarry (v : Word) (n : Nat) : Bool := decide (v.toNat % 2 ^ n ≠ 0)

/-- ASR (R203). -/
def asrRule (v : Word) (n : Nat) (f : Flags) : Word × Flags :=
  let r := BitVec.ofInt 16 (v.toInt / 2 ^ n)
  (r, { f with C := rightCarry v n, V := v != 0xFFFF && r == 0xFFFF }.nz r)

/-- LSR (R204). -/
def lsrRule (v : Word) (n : Nat) (f : Flags) : Word × Flags :=
  let r := BitVec.ofNat 16 (v.toNat / 2 ^ n)
  (r, { f with C := rightCarry v n }.nz r)

/-- The 17-bit quantity of a rotate through carry, C as bit 16 (R205). -/
def withCarry (v : Word) (c : Bool) : Nat := c.toNat * 2 ^ 16 + v.toNat

/-- Result and C of a rotate through carry whose 17-bit result is `t`; count 0 keeps C (R205, R206). -/
def carryRotated (t n : Nat) (f : Flags) : Word × Flags :=
  let r := BitVec.ofNat 16 t
  (r, { f with C := if n = 0 then f.C else t.testBit 16 }.nz r)

/-- ROL (R205). -/
def rolRule (v : Word) (n : Nat) (f : Flags) : Word × Flags :=
  let t := withCarry v f.C
  carryRotated (t * 2 ^ n % 2 ^ 17 + t / 2 ^ (17 - n)) n f

/-- ROR (R206). -/
def rorRule (v : Word) (n : Nat) (f : Flags) : Word × Flags :=
  let t := withCarry v f.C
  carryRotated (t / 2 ^ n + t * 2 ^ (17 - n) % 2 ^ 17) n f

/-- RNL (R207). -/
def rnlRule (v : Word) (n : Nat) (f : Flags) : Word × Flags :=
  let r := BitVec.ofNat 16 (v.toNat * 2 ^ n % 2 ^ 16 + v.toNat / 2 ^ (16 - n))
  (r, f.nz r)

/-- RNR (R208). -/
def rnrRule (v : Word) (n : Nat) (f : Flags) : Word × Flags :=
  let r := BitVec.ofNat 16 (v.toNat / 2 ^ n + v.toNat * 2 ^ (16 - n) % 2 ^ 16)
  (r, f.nz r)

-- Bit tests of bit `b` of `v` (42_bittest.md).

/-- The word with bit `b` set or cleared. -/
def withBit (v : Word) (b : Nat) (x : Bool) : Word :=
  if x then v ||| BitVec.twoPow 16 b else v &&& ~~~ BitVec.twoPow 16 b

/-- BIT (R221): C is kept. -/
def bitRule (v : Word) (b : Nat) (f : Flags) : Word × Flags :=
  (v, { f with Z := !v.getLsbD b })

/-- BTX (R222): C is the new bit. -/
def btxRule (v : Word) (b : Nat) (f : Flags) : Word × Flags :=
  (withBit v b (!v.getLsbD b), { f with Z := !v.getLsbD b, C := !v.getLsbD b })

/-- BTC (R223): C where the bit changed. -/
def btcRule (v : Word) (b : Nat) (f : Flags) : Word × Flags :=
  (withBit v b false, { f with Z := !v.getLsbD b, C := v.getLsbD b != false })

/-- BTS (R224): C where the bit changed. -/
def btsRule (v : Word) (b : Nat) (f : Flags) : Word × Flags :=
  (withBit v b true, { f with Z := !v.getLsbD b, C := v.getLsbD b != true })

-- Branch conditions (43_branch.md R231) and flag masks (49_processor.md R320, R321).

/-- The flags selected by a mask N Z C V from bit 3 down, set to `x`. -/
def Flags.assign (f : Flags) (mask : BitVec 4) (x : Bool) : Flags :=
  { N := if mask.getLsbD 3 then x else f.N
    Z := if mask.getLsbD 2 then x else f.Z
    C := if mask.getLsbD 1 then x else f.C
    V := if mask.getLsbD 0 then x else f.V }

end Sys2Proof.Machine
end

