-- ==== Sys2Proof/Machine/Operands.lean ====
section
/-! DEFINITION. The operand forms (spec/30_encoding.md R125, R126, R115, R129, R122). `size` is the number of bytes of the
data operated on: 2, or 1 for LOD.8 and STO.8. -/

namespace Sys2Proof.Machine

/-- The address of a memory operand; none for Immediate and Register modes (30_encoding.md R125). -/
def operandAddr (size : Word) (m : Operand) (s : State) : Option Word :=
  match m with
  | .imm _ => none
  | .abs a => some a
  | .reg _ => none
  | .ind r => some (s.reg r)
  | .indOff r off => some (s.reg r + off)
  | .postInc r => some (s.reg r)
  | .preDec r => some (s.reg r - size)
  | .indexed r ix => some (s.reg r + s.reg ix)

/-- The base-register update of PostInc and PreDec, made after the access at address `a` succeeded (30_encoding.md R125). -/
def operandUpdate (size : Word) (m : Operand) (a : Word) (s : State) : State :=
  match m with
  | .postInc r => s.setReg r (a + size)
  | .preDec r => s.setReg r a
  | _ => s

/-- `ReadOperand(W, 2)` and `JmpOperand(W)` (30_encoding.md R125, R126). -/
def readOperand (m : Operand) (s : State) : Res Word :=
  match m with
  | .imm v => .ok v s
  | .reg r => .ok (s.reg r) s
  | m =>
    match operandAddr 2 m s with
    | some a => (readWord .read a s).bind fun v t => .ok v (operandUpdate 2 m a t)
    | none => .ok 0 s

/-- `ReadOperand(W, 1)` (30_encoding.md R125): the low byte of an immediate or a register, or one byte of memory. -/
def readOperand8 (m : Operand) (s : State) : Res Byte :=
  match m with
  | .imm v => .ok (loByte v) s
  | .reg r => .ok (loByte (s.reg r)) s
  | m =>
    match operandAddr 1 m s with
    | some a => (readByte .read a s).bind fun v t => .ok v (operandUpdate 1 m a t)
    | none => .ok 0 s

/-- The store of STO (40_alu.md R163): Immediate and Register modes raise UndefOpcode, the others write `v` and then update the
base register. -/
def storeOperand (m : Operand) (v : Word) (s : State) : Res Unit :=
  match operandAddr 2 m s with
  | some a => (writeWord a v s).bind fun _ t => .ok () (operandUpdate 2 m a t)
  | none => .raise .undefOpcode s

/-- The store of STO.8 (40_alu.md R181): as STO, one byte. -/
def storeOperand8 (m : Operand) (v : Byte) (s : State) : Res Unit :=
  match operandAddr 1 m s with
  | some a => (writeByte a v s).bind fun _ t => .ok () (operandUpdate 1 m a t)
  | none => .raise .undefOpcode s

/-- The length in bytes of an instruction with this operand (30_encoding.md R136). -/
def operandLength (m : Operand) : Nat := if m.hasNext then 4 else 2

/-- `ShiftCount(W)` and `BitIndex(W)` (30_encoding.md R115, R129): 0 to 15. -/
def countValue (n : Count) (s : State) : Nat :=
  match n with
  | .imm k => k.toNat
  | .reg r => (lowNibble (s.reg r)).toNat

/-- The operand of ADI and SBI, 1 to 32 (30_encoding.md R122). -/
def immValue (v : BitVec 5) : Word := v.setWidth 16 + 1

end Sys2Proof.Machine
end

