-- ==== Sys2Proof/Machine/Alu.lean ====
section
/-! DEFINITION. The ALU and AL8 instructions (spec/40_alu.md): the common frame R160 once, then one meaning per
instruction. -/

namespace Sys2Proof.Machine

/-- The frame R160 for a result of one word: Rx is read, then the operand is resolved, and Rx is written last. -/
def aluOp (rule : Word → Word → Flags → Word × Flags) (rd : Reg) (m : Operand) (s : State) :
    Host.Outcome State Fault Refusal :=
  finish s <| (readOperand m s).bind fun v t =>
    let r := rule (s.reg rd) v s.fl
    .ok () (next (operandLength m) s ((t.setReg rd r.1).setFl r.2))

/-- The frame R160 for a 32-bit product: the high half goes to R0 first, then the low half to Rx (R168, R170). -/
def mulOp (rule : Word → Word → Flags → BitVec 32 × Flags) (rd : Reg) (m : Operand) (s : State) :
    Host.Outcome State Fault Refusal :=
  finish s <| (readOperand m s).bind fun v t =>
    let r := rule (s.reg rd) v s.fl
    .ok () (next (operandLength m) s
      (((t.setReg 0 (r.1.extractLsb' 16 16)).setReg rd (r.1.extractLsb' 0 16)).setFl r.2))

/-- The frame R160 of a division: a zero divisor raises DivideByZero after the operand is resolved (R183). -/
def divOp (rule : Word → Word → Flags → Word × Flags) (rd : Reg) (m : Operand) (s : State) :
    Host.Outcome State Fault Refusal :=
  finish s <| (readOperand m s).bind fun v t =>
    if v = 0 then .raise .divideByZero t
    else
      let r := rule (s.reg rd) v s.fl
      .ok () (next (operandLength m) s ((t.setReg rd r.1).setFl r.2))

/-- LOD (R162). -/
def execLod (rd : Reg) (m : Operand) (s : State) : Host.Outcome State Fault Refusal := aluOp lodRule rd m s

/-- STO (R163): the value Rx had when the instruction began; no flag. -/
def execSto (rd : Reg) (m : Operand) (s : State) : Host.Outcome State Fault Refusal :=
  finish s <| (storeOperand m (s.reg rd) s).bind fun _ t => .ok () (next (operandLength m) s t)

/-- ADD (R164). -/
def execAdd (rd : Reg) (m : Operand) (s : State) : Host.Outcome State Fault Refusal := aluOp addRule rd m s

/-- SUB (R165). -/
def execSub (rd : Reg) (m : Operand) (s : State) : Host.Outcome State Fault Refusal := aluOp subRule rd m s

/-- ADC (R166). -/
def execAdc (rd : Reg) (m : Operand) (s : State) : Host.Outcome State Fault Refusal := aluOp adcRule rd m s

/-- SBC (R167). -/
def execSbc (rd : Reg) (m : Operand) (s : State) : Host.Outcome State Fault Refusal := aluOp sbcRule rd m s

/-- MUL (R168). -/
def execMul (rd : Reg) (m : Operand) (s : State) : Host.Outcome State Fault Refusal := mulOp mulRule rd m s

/-- DIV (R169). -/
def execDiv (rd : Reg) (m : Operand) (s : State) : Host.Outcome State Fault Refusal := divOp divRule rd m s

/-- MLI (R170). -/
def execMli (rd : Reg) (m : Operand) (s : State) : Host.Outcome State Fault Refusal := mulOp mliRule rd m s

/-- DVI (R171). -/
def execDvi (rd : Reg) (m : Operand) (s : State) : Host.Outcome State Fault Refusal := divOp dviRule rd m s

/-- MOD (R172). -/
def execMod (rd : Reg) (m : Operand) (s : State) : Host.Outcome State Fault Refusal := divOp modRule rd m s

/-- MDI (R173). -/
def execMdi (rd : Reg) (m : Operand) (s : State) : Host.Outcome State Fault Refusal := divOp mdiRule rd m s

/-- AND (R174). -/
def execAnd (rd : Reg) (m : Operand) (s : State) : Host.Outcome State Fault Refusal := aluOp andRule rd m s

/-- ORR (R175). -/
def execOrr (rd : Reg) (m : Operand) (s : State) : Host.Outcome State Fault Refusal := aluOp orrRule rd m s

/-- EOR (R176). -/
def execEor (rd : Reg) (m : Operand) (s : State) : Host.Outcome State Fault Refusal := aluOp eorRule rd m s

/-- NOT (R177). -/
def execNot (rd : Reg) (m : Operand) (s : State) : Host.Outcome State Fault Refusal := aluOp notRule rd m s

/-- CMP (R178): the flags only. -/
def execCmp (rd : Reg) (m : Operand) (s : State) : Host.Outcome State Fault Refusal :=
  finish s <| (readOperand m s).bind fun v t =>
    .ok () (next (operandLength m) s (t.setFl (cmpFlags (s.reg rd) v s.fl)))

/-- NEG (R179). -/
def execNeg (rd : Reg) (m : Operand) (s : State) : Host.Outcome State Fault Refusal := aluOp negRule rd m s

/-- LOD.8 (R180): one byte, zero-extended. -/
def execLod8 (rd : Reg) (m : Operand) (s : State) : Host.Outcome State Fault Refusal :=
  finish s <| (readOperand8 m s).bind fun v t =>
    let r := lod8Rule v s.fl
    .ok () (next (operandLength m) s ((t.setReg rd r.1).setFl r.2))

/-- STO.8 (R181): the low byte of Rx; no flag. -/
def execSto8 (rd : Reg) (m : Operand) (s : State) : Host.Outcome State Fault Refusal :=
  finish s <| (storeOperand8 m (loByte (s.reg rd)) s).bind fun _ t => .ok () (next (operandLength m) s t)

end Sys2Proof.Machine
end

