-- ==== Sys2Proof/Machine/BitTest.lean ====
section
/-! DEFINITION. The bit tests (spec/42_bittest.md): the frame R220 once, then one meaning per instruction. -/

namespace Sys2Proof.Machine

/-- The frame R220: the bit number is read before Rx is written. -/
def bitOp (rule : Word → Nat → Flags → Word × Flags) (rd : Reg) (n : Count) (s : State) :
    Host.Outcome State Fault Refusal :=
  let r := rule (s.reg rd) (countValue n s) s.fl
  .next (next 2 s ((s.setReg rd r.1).setFl r.2))

/-- BIT (R221): Rx keeps its value. -/
def execBit (rd : Reg) (n : Count) (s : State) : Host.Outcome State Fault Refusal := bitOp bitRule rd n s

/-- BTX (R222). -/
def execBtx (rd : Reg) (n : Count) (s : State) : Host.Outcome State Fault Refusal := bitOp btxRule rd n s

/-- BTC (R223). -/
def execBtc (rd : Reg) (n : Count) (s : State) : Host.Outcome State Fault Refusal := bitOp btcRule rd n s

/-- BTS (R224). -/
def execBts (rd : Reg) (n : Count) (s : State) : Host.Outcome State Fault Refusal := bitOp btsRule rd n s

end Sys2Proof.Machine
end

