-- ==== Sys2Proof/Machine/Branch.lean ====
section
/-! DEFINITION. The branches (spec/43_branch.md): the frame R230 once, then one meaning per condition of R231. -/

namespace Sys2Proof.Machine

/-- The target of a branch: the address of the branch, BRANCH_BASE and twice the offset (R230). -/
def branchTarget (off : BitVec 8) (s : State) : Word :=
  instrAddr s + (if s.cfg.branchNext then 2 else 0) + branchOffset off

/-- The frame R230. -/
def branch (cond : Bool) (off : BitVec 8) (s : State) : Host.Outcome State Fault Refusal :=
  .next (if cond then s.setPc (branchTarget off s) else next 2 s s)

/-- BCC (R232). -/
def execBcc (off : BitVec 8) (s : State) : Host.Outcome State Fault Refusal := branch (!s.fl.C) off s

/-- BCS (R233). -/
def execBcs (off : BitVec 8) (s : State) : Host.Outcome State Fault Refusal := branch s.fl.C off s

/-- BNE (R234). -/
def execBne (off : BitVec 8) (s : State) : Host.Outcome State Fault Refusal := branch (!s.fl.Z) off s

/-- BEQ (R235). -/
def execBeq (off : BitVec 8) (s : State) : Host.Outcome State Fault Refusal := branch s.fl.Z off s

/-- BPL (R236). -/
def execBpl (off : BitVec 8) (s : State) : Host.Outcome State Fault Refusal := branch (!s.fl.N) off s

/-- BMI (R237). -/
def execBmi (off : BitVec 8) (s : State) : Host.Outcome State Fault Refusal := branch s.fl.N off s

/-- BVC (R238). -/
def execBvc (off : BitVec 8) (s : State) : Host.Outcome State Fault Refusal := branch (!s.fl.V) off s

/-- BVS (R239). -/
def execBvs (off : BitVec 8) (s : State) : Host.Outcome State Fault Refusal := branch s.fl.V off s

/-- BUG (R450): the name wins over the flag column (90_conflicts.md C15). -/
def execBug (off : BitVec 8) (s : State) : Host.Outcome State Fault Refusal := branch (s.fl.C && !s.fl.Z) off s

/-- BSG (R451): the name wins over the flag column (90_conflicts.md C15). -/
def execBsg (off : BitVec 8) (s : State) : Host.Outcome State Fault Refusal := branch (s.fl.N && !s.fl.Z) off s

/-- BAW (R452). -/
def execBaw (off : BitVec 8) (s : State) : Host.Outcome State Fault Refusal := branch true off s

end Sys2Proof.Machine
end

