-- ==== Sys2Proof/Machine/Fp.lean ====
section
/-! DEFINITION. The parameter FpArith (spec/44_fpu.md R243; log entry 20): the constraints C-a to C-e hold for both
instances by construction. -/

namespace Sys2Proof.Machine

/-- The exponent field `F[30:23]` (44_fpu.md R241). -/
def expField (x : BitVec 32) : Nat := (x.extractLsb' 23 8).toNat

/-- An operand with exponent field 0 is treated exactly as $00000000 (R242 item 2, R243 C-b), and a result with exponent
field 0 is the clean zero (R242 item 3, C-c). -/
def fpFlush (x : BitVec 32) : BitVec 32 := if expField x = 0 then 0 else x

/-- A pattern from its sign, exponent field and 24-bit significand with the hidden bit. -/
def fpPack (sign : Bool) (e : Nat) (m : Nat) : BitVec 32 :=
  (BitVec.ofBool sign ++ BitVec.ofNat 8 e ++ BitVec.ofNat 23 m : BitVec 32)

/-- The significand with the hidden bit of a pattern with exponent field not 0. -/
def fpMantissa (x : BitVec 32) : Nat := 2 ^ 23 + (x.extractLsb' 0 23).toNat

/-- The binary32 pattern nearest to `mag * 2 ^ (ex - 150)` with the given sign, ties to even; none where it needs
exponent field $FF; below the normal range it is the clean zero (R243, the default instance).
The units in the last place start at `2 ^ (1 - 150)`, so `drop` low bits of `mag` are rounded away, or zero bits are
appended where `drop` is negative. -/
def fpRound (sign : Bool) (mag : Nat) (ex : Int) : Option (BitVec 32) :=
  if mag = 0 then some 0
  else
    let drop : Int := max ((Nat.log2 mag : Int) - 23) (1 - ex)
    let q : Nat :=
      if drop ≤ 0 then mag * 2 ^ (-drop).toNat
      else
        let d := drop.toNat
        let q0 := mag / 2 ^ d
        let rest := mag % 2 ^ d
        if 2 ^ (d - 1) < rest ∨ (rest = 2 ^ (d - 1) ∧ q0 % 2 = 1) then q0 + 1 else q0
    let m : Nat := if q = 2 ^ 24 then 2 ^ 23 else q
    let e : Int := if q = 2 ^ 24 then ex + drop + 1 else ex + drop
    if m < 2 ^ 23 then some 0
    else if 255 ≤ e then none
    else some (fpPack sign e.toNat m)

/-- The exact sum of two signed values `± m * 2 ^ (e - 150)`, rounded. -/
def fpAddExact (sx : Bool) (ex mx : Nat) (sy : Bool) (ey my : Nat) : Option (BitVec 32) :=
  let lo := min ex ey
  let vx : Int := (if sx then -1 else 1) * (mx * 2 ^ (ex - lo) : Nat)
  let vy : Int := (if sy then -1 else 1) * (my * 2 ^ (ey - lo) : Nat)
  fpRound (decide (vx + vy < 0)) (vx + vy).natAbs lo

/-- The significand of an operand, 0 for the clean zero. -/
def fpSig (x : BitVec 32) : Nat := if x = 0 then 0 else fpMantissa x

/-- The default instance (R243): IEEE 754 binary32 with round to nearest even, operands already flushed, none for bad
input: an operand with exponent field $FF or a result that needs it. -/
def fpBinary32 (op : FpOp) (x y : BitVec 32) : Option (BitVec 32) :=
  if expField x = 255 ∨ expField y = 255 then none
  else
    match op with
    | .add => fpAddExact x.msb (expField x) (fpSig x) y.msb (expField y) (fpSig y)
    | .sub => fpAddExact x.msb (expField x) (fpSig x) (!y.msb) (expField y) (fpSig y)
    | .mul => fpRound (x.msb != y.msb) (fpSig x * fpSig y) ((expField x : Int) + expField y - 150)
    | .div =>
      let n := fpSig x * 2 ^ 30
      let d := fpSig y
      let sticky : Nat := if n % d = 0 then 0 else 1
      fpRound (x.msb != y.msb) (2 * (n / d) + sticky) ((expField x : Int) - expField y + 150 - 31)

/-- The instance of the model at hand, on flushed operands. -/
def fpCore (inst : FpInstance) (op : FpOp) (x y : BitVec 32) : Option (BitVec 32) :=
  match inst with
  | .unspecified => Config.fpOpen op x y
  | .binary32 => fpBinary32 op x y

/-- C-e: the sums and products of the clean zero that are known to be the clean zero, for operands that are finite (their
exponent field is not $FF). -/
def fpKnownZero (op : FpOp) (x y : BitVec 32) : Bool :=
  match op with
  | .add => x == 0 && y == 0
  | .sub => x == 0 && y == 0
  | .mul => (x == 0 && expField y != 255) || (y == 0 && expField x != 255)
  | .div => false

/-- FpArith (R243). C-a and C-d: the divide-by-zero error exactly for a division whose divisor has exponent field 0. C-b, C-c:
operands and results flushed. C-e: `fpKnownZero`. -/
def fpArith (inst : FpInstance) (op : FpOp) (x y : BitVec 32) : FpResult :=
  if op = .div ∧ expField y = 0 then .err true
  else if fpKnownZero op (fpFlush x) (fpFlush y) then .ok 0
  else
    match fpCore inst op (fpFlush x) (fpFlush y) with
    | some f => .ok (fpFlush f)
    | none => .err false

end Sys2Proof.Machine
end

