-- ==== Sys2Proof/Machine/Fpu.lean ====
section
/-! DEFINITION. The floating-point instructions (spec/44_fpu.md): the frame R244 once, then one meaning per operation. -/

namespace Sys2Proof.Machine

/-- The 32-bit value at logical address `p`, its low word first (R241, R244). -/
def readFloat (p : Word) (s : State) : Res (BitVec 32) :=
  (readWord .read p s).bind fun lo t =>
  (readWord .read (p + 2) t).bind fun hi u => .ok (hi ++ lo) u

/-- A result pushed, its high word first, so that the low word lies on top (R244). -/
def pushFloat (f : BitVec 32) (s : State) : Res Unit :=
  (push (f.extractLsb' 16 16) s).bind fun _ t => push (f.extractLsb' 0 16) t

/-- FL after a result: N its sign, Z the pattern $00000000 (R244). -/
def fpFlags (f : BitVec 32) (fl : Flags) : Flags := { fl with N := f.msb, Z := f == 0 }

/-- FL after an error (R249). -/
def fpErrorFlags (divZero : Bool) : Flags := { N := false, Z := false, C := divZero, V := false }

/-- The frame R244. -/
def fpuOp (op : FpOp) (rx ry : Reg) (s : State) : Host.Outcome State Fault Refusal :=
  finish s <| (readFloat (s.reg rx) s).bind fun x t =>
    (readFloat (s.reg ry) t).bind fun y u =>
    match fpArith s.cfg.fp op x y with
    | .ok f => (pushFloat f u).bind fun _ w => .ok () (next 2 s (w.setFl (fpFlags f s.fl)))
    | .err dz => .raise .fpuError (u.setFl (fpErrorFlags dz))

/-- FPA (R245). -/
def execFpa (rx ry : Reg) (s : State) : Host.Outcome State Fault Refusal := fpuOp .add rx ry s

/-- FPS (R246). -/
def execFps (rx ry : Reg) (s : State) : Host.Outcome State Fault Refusal := fpuOp .sub rx ry s

/-- FPM (R247). -/
def execFpm (rx ry : Reg) (s : State) : Host.Outcome State Fault Refusal := fpuOp .mul rx ry s

/-- FPD (R248). -/
def execFpd (rx ry : Reg) (s : State) : Host.Outcome State Fault Refusal := fpuOp .div rx ry s

end Sys2Proof.Machine
end

