-- ==== Sys2Proof/Machine/Immediate.lean ====
section
/-! DEFINITION. The immediate instructions (spec/45_immediate.md R260): the results and flags of ADD and SUB. -/

namespace Sys2Proof.Machine

/-- The frame R260. -/
def immOp (rule : Word → Word → Flags → Word × Flags) (rd : Reg) (m : Word) (s : State) :
    Host.Outcome State Fault Refusal :=
  let r := rule (s.reg rd) m s.fl
  .next (next 2 s ((s.setReg rd r.1).setFl r.2))

/-- ADI (R261). -/
def execAdi (rd : Reg) (v : BitVec 5) (s : State) : Host.Outcome State Fault Refusal := immOp addRule rd (immValue v) s

/-- SBI (R262): a subtraction (90_conflicts.md C20). -/
def execSbi (rd : Reg) (v : BitVec 5) (s : State) : Host.Outcome State Fault Refusal := immOp subRule rd (immValue v) s

/-- INC (R263): ADI with 1. -/
def execInc (rd : Reg) (s : State) : Host.Outcome State Fault Refusal := immOp addRule rd 1 s

/-- DEC (R264): SBI with 1. -/
def execDec (rd : Reg) (s : State) : Host.Outcome State Fault Refusal := immOp subRule rd 1 s

end Sys2Proof.Machine
end

