-- ==== Sys2Proof/Machine/InterruptInstr.lean ====
section
/-! DEFINITION. The interrupt instructions (spec/46_interrupt_instr.md). -/

namespace Sys2Proof.Machine

/-- RTI (R271): privileged. -/
def execRti (s : State) : Host.Outcome State Fault Refusal := finish s (requirePriv s (returnFromInterrupt s))

/-- SWI (R272): the interrupt, or nothing where it is gated and PS.I = 0. -/
def execSwi (s : State) : Host.Outcome State Fault Refusal :=
  finish s (if s.ps.I || !s.cfg.swiGated then .raise .swi s else .ok () (next 2 s s))

end Sys2Proof.Machine
end

