-- ==== Sys2Proof/Machine/Jump.lean ====
section
/-! DEFINITION. The jumps and calls (spec/47_jump_call.md) but for RTS, which stands with POP. -/

namespace Sys2Proof.Machine

/-- JMP (R281). -/
def execJmp (m : Operand) (s : State) : Host.Outcome State Fault Refusal :=
  finish s <| (readOperand m s).bind fun v t => .ok () (t.setPc v)

/-- JSR (R282): the operand first, then the push of the address after the instruction. -/
def execJsr (m : Operand) (s : State) : Host.Outcome State Fault Refusal :=
  finish s <| (readOperand m s).bind fun v t =>
    (push (npc (operandLength m) s) t).bind fun _ u => .ok () (u.setPc v)

/-- JMU (R284): privileged; S is cleared after the operand is resolved. -/
def execJmu (m : Operand) (s : State) : Host.Outcome State Fault Refusal :=
  finish s <| requirePriv s <| (readOperand m s).bind fun v t =>
    .ok () ((t.setPs { t.ps with S := false }).setPc v)

/-- R7 to R0 popped in this order (R286). -/
def popAll (s : State) : Res Unit :=
  forEach (fun r t => (pop t).bind fun v u => .ok () (u.setReg r v)) [7, 6, 5, 4, 3, 2, 1, 0] s

/-- JCX (R286): privileged; PC is popped before PS, and PS is loaded whole. -/
def execJcx (s : State) : Host.Outcome State Fault Refusal :=
  finish s <| requirePriv s <| (pop s).bind fun a t =>
    (loadMmu a t).bind fun _ t =>
    (popAll t).bind fun _ t =>
    (popPair t).bind fun f t =>
    (pop (t.setFl (flagsOf f.2))).bind fun p t =>
    (popPair t).bind fun q t =>
    .ok () ((writePs (statusOf q.2) t).setPc p)

end Sys2Proof.Machine
end

