-- ==== Sys2Proof/Machine/Processor.lean ====
section
/-! DEFINITION. The processor functions (spec/49_processor.md): SEF, CLF, SWO, HWQ, MIM, MIA, MMR, MMW, MML, MMS, TSR, TRS,
SLP. -/

namespace Sys2Proof.Machine

-- Flags and octets.

/-- SEF (R321). -/
def execSef (mask : BitVec 4) (s : State) : Host.Outcome State Fault Refusal :=
  .next (next 2 s (s.setFl (s.fl.assign mask true)))

/-- CLF (R320). -/
def execClf (mask : BitVec 4) (s : State) : Host.Outcome State Fault Refusal :=
  .next (next 2 s (s.setFl (s.fl.assign mask false)))

/-- The octet moves of SWO from the source and destination values (R346). -/
def swoResult (op : SwoOp) (src dst : Word) : Word :=
  match op with
  | .lr => wordOf (loByte src) 0
  | .hr => wordOf (hiByte src) 0
  | .lw => wordOf (loByte src) (hiByte dst)
  | .hw => wordOf (loByte dst) (loByte src)

/-- SWO (R346): `rs` is the source. -/
def execSwo (rd rs : Reg) (op : SwoOp) (s : State) : Host.Outcome State Fault Refusal :=
  .next (next 2 s (s.setReg rd (swoResult op (s.reg rs) (s.reg rd))))

-- The Hardware Bus and the real time clock.

/-- R0 to R3 written with the four words of an answer (R325). -/
def setAnswer (f : Fin 4 → Word) (s : State) : State :=
  (((s.setReg 0 (f 0)).setReg 1 (f 1)).setReg 2 (f 2)).setReg 3 (f 3)

/-- HWQ $05 to $FF (R323): UnprivOpcode in User mode; no successor state in Supervisor mode (U8; log entry 13). -/
def execHwq (op : BitVec 8) (s : State) : Host.Outcome State Fault Refusal :=
  if s.ps.S then .refused (.hwqOperation op) else finish s (.raise .unprivOpcode s)

/-- HWQ $00 (R326): privileged; the device count is the bus's (log entry 10). -/
def execHwqCount (s : State) : Host.Outcome State Fault Refusal :=
  finish s <| requirePriv s <|
    .ok () (next 2 s (((s.logBus .count).draw).setReg 0 (BitVec.ofNat 16 (Config.busCount s.free s.bus).val)))

/-- HWQ $01 (R327): privileged; the four words are the bus's (U5; log entry 10). -/
def execHwqQuery (s : State) : Host.Outcome State Fault Refusal :=
  finish s <| requirePriv s <|
    .ok () (next 2 s (setAnswer (Config.busQuery s.free s.bus (s.reg 0)) ((s.logBus (.query (s.reg 0))).draw)))

/-- The bytes a device writes to internal RAM; RAM the chip does not have is not written (R328, U6). -/
def deviceWrites (cfg : Params) (l : List Host.Cell) (m : Memory) : Memory :=
  l.foldl (fun m c => if c.1 < cfg.nram * 4096 then m.write ramDefault c.1 c.2 else m) m

/-- HWQ $02 (R328): privileged; the device may answer in R0 to R3 and write internal RAM; what it does to its own banks shows
in its later answers, which depend on the bus history (log entry 12). -/
def execHwqMessage (s : State) : Host.Outcome State Fault Refusal :=
  finish s <| requirePriv s <|
    let t := (s.logBus (.message (s.reg 0) (s.reg 1) (s.reg 2) (s.reg 3))).draw
    let u := t.setRam (deviceWrites s.cfg (Config.messageWrites s.free t.bus s.ram) s.ram)
    .ok () (next 2 s (setAnswer (Config.messageReply s.free t.bus s.ram) u))

/-- The tick setting that R0 asks for (R329, 60_exceptions.md R392). -/
def tickOf (r : Word) : Tick :=
  if r = 0xFFFF then .disabled else .rate ⟨min r.toNat 10, by omega⟩

/-- HWQ $03 (R329): privileged. -/
def execHwqSetTick (s : State) : Host.Outcome State Fault Refusal :=
  finish s <| requirePriv s <| .ok () (next 2 s (s.setTick (tickOf (s.reg 0))))

/-- The four words of a clock reading; the bits drawn `.` are those of the words `f` (R330, U9; log entry 6). -/
def rtcWords (t : RtcTime) (f : Fin 4 → Word) (k : Fin 4) : Word :=
  match k with
  | 0 => (BitVec.ofNat 8 t.year.val ++ (f 0).extractLsb' 4 4 ++ BitVec.ofNat 4 t.month.val : BitVec 16)
  | 1 => ((f 1).extractLsb' 13 3 ++ BitVec.ofNat 5 t.day.val ++ (f 1).extractLsb' 5 3 ++ BitVec.ofNat 5 t.hour.val :
      BitVec 16)
  | 2 => ((f 2).extractLsb' 14 2 ++ BitVec.ofNat 6 t.minute.val ++ (f 2).extractLsb' 6 2 ++ BitVec.ofNat 6 t.second.val :
      BitVec 16)
  | 3 => ((f 3).extractLsb' 12 4 ++ BitVec.ofNat 12 t.milli.val : BitVec 16)

/-- HWQ $04 (R330): privileged; one reading of the clock; the next reading is the environment's (log entry 14). -/
def execHwqGetTime (s : State) : Host.Outcome State Fault Refusal :=
  finish s <| requirePriv s <|
    let u := (s.setRtcTime (Config.rtcNow s.free)).draw.draw.draw.draw
    .ok () (next 2 s (setAnswer (rtcWords s.rtcTime fun k => Config.freeWord (s.free + k.val)) u))

-- The internal bank map.

/-- `Decode` of a bank word (R331): the index is reduced modulo the number of banks of its kind. -/
def decodeBank (cfg : Params) (w : Word) : BankRef :=
  if w.msb then ⟨.rom, (w.extractLsb' 0 15).toNat % cfg.nrom⟩ else ⟨.ram, (w.extractLsb' 0 15).toNat % cfg.nram⟩

/-- MIM (R331): no effect but the advance of PC while PS.M = 1. -/
def execMim (rv ra : Reg) (s : State) : Host.Outcome State Fault Refusal :=
  .next (next 2 s
    (if s.ps.M then s
      else s.setBank ⟨(lowNibble (s.reg rv)).toNat, (lowNibble (s.reg rv)).isLt⟩ (decodeBank s.cfg (s.reg ra))))

/-- `n` words from address `a` up, in rising order. -/
def readArray (a : Word) : Nat → State → Res (List Word)
  | 0, s => .ok [] s
  | n + 1, s => (readWord .read a s).bind fun w t => (readArray (a + 2) n t).bind fun l u => .ok (w :: l) u

/-- MIA (R332): all sixteen words are read before any entry is replaced; no effect but the advance of PC while PS.M = 1. -/
def execMia (ra : Reg) (s : State) : Host.Outcome State Fault Refusal :=
  finish s <|
    if s.ps.M then .ok () (next 2 s s)
    else (readArray (s.reg ra) 16 s).bind fun l t =>
      .ok () (next 2 s (t.setIm (Vector.ofFn fun k => decodeBank s.cfg (l.getD k.val 0))))

-- The MMU cache.

/-- An MMU index: the low five bits of a register (R335, R336). -/
def mmuIndex (w : Word) : Fin 32 := ⟨(w.extractLsb' 0 5).toNat, (w.extractLsb' 0 5).isLt⟩

/-- MMR (R335): privileged. -/
def execMmr (rv ra : Reg) (s : State) : Host.Outcome State Fault Refusal :=
  finish s <| requirePriv s <| .ok () (next 2 s (s.setReg rv (s.mmuWord (mmuIndex (s.reg ra)))))

/-- MMW (R336): privileged. -/
def execMmw (rv ra : Reg) (s : State) : Host.Outcome State Fault Refusal :=
  finish s <| requirePriv s <| .ok () (next 2 s (s.setMmu (mmuIndex (s.reg ra)) (s.reg rv)))

/-- The 32 MMU words stored from address `a` up; each is read when it is stored (R337). -/
def storeMmu (a : Word) (s : State) : Res Unit :=
  forEach (fun i t => writeWord (a + BitVec.ofNat 16 (2 * i.val)) (t.mmuWord i) t) (List.finRange 32) s

/-- MML (R337): MMU to memory; privileged. -/
def execMml (m : Operand) (s : State) : Host.Outcome State Fault Refusal :=
  finish s <| requirePriv s <| (readOperand m s).bind fun a t =>
    (storeMmu a t).bind fun _ u => .ok () (next (operandLength m) s u)

/-- MMS (R338): memory to MMU; privileged. -/
def execMms (m : Operand) (s : State) : Host.Outcome State Fault Refusal :=
  finish s <| requirePriv s <| (readOperand m s).bind fun a t =>
    (loadMmu a t).bind fun _ u => .ok () (next (operandLength m) s u)

-- Special registers.

/-- The indices TSR may read in User mode: PC, SP, PS (10_state.md R41). -/
def tsrAllowed (sr : BitVec 5) : Bool := sr == 0 || sr == 1 || sr == 4

/-- The indices TRS may write in User mode: PC, SP (10_state.md R41; log entry 16). -/
def trsAllowed (sr : BitVec 5) : Bool := sr == 0 || sr == 1

/-- The value of a special register as TSR reads it, and the state after the read; none for $08 to $1F (R340, R342). -/
def readSpecial (sr : BitVec 5) (s : State) : Option (Word × State) :=
  match sr.toNat with
  | 0 => some (npc 2 s, s)
  | 1 => some (s.sp, s)
  | 2 => some (s.ia, s)
  | 3 => some (s.ii, s)
  | 4 => some (wordOf (readPsLow s).1 (statusByte s.ps), (readPsLow s).2)
  | 5 => some (s.p2, s)
  | 6 => some (s.usp, s)
  | 7 => some (s.ssp, s)
  | _ => none

/-- A write of a special register other than PC; $08 to $1F do nothing (R341, R342). -/
def writeSpecial (sr : BitVec 5) (v : Word) (s : State) : State :=
  match sr.toNat with
  | 1 => s.setSp v
  | 2 => s.setIa v
  | 3 => s.setIi v
  | 4 => writePs (statusOf (hiByte v)) s
  | 5 => s.setP2 v
  | 6 => s.setUsp v
  | 7 => s.setSsp v
  | _ => s

/-- TSR (R340). -/
def execTsr (rd : Reg) (sr : BitVec 5) (s : State) : Host.Outcome State Fault Refusal :=
  finish s <|
    if !s.ps.S && !tsrAllowed sr then .raise .unprivOpcode s
    else
      match readSpecial sr s with
      | some r => .ok () (next 2 s (r.2.setReg rd r.1))
      | none => .ok () (next 2 s s)

/-- TRS (R341). -/
def execTrs (rs : Reg) (sr : BitVec 5) (s : State) : Host.Outcome State Fault Refusal :=
  finish s <|
    if !s.ps.S && !trsAllowed sr then .raise .unprivOpcode s
    else if sr = 0 then .ok () (s.setPc (s.reg rs))
    else .ok () (next 2 s (writeSpecial sr (s.reg rs) s))

/-- SLP (R345): privileged. -/
def execSlp (s : State) : Host.Outcome State Fault Refusal :=
  finish s <| requirePriv s <| .ok () (next 2 s (s.setHalted true))

end Sys2Proof.Machine
end

