-- ==== Sys2Proof/Machine/Shift.lean ====
section
/-! DEFINITION. The shifts and rotates (spec/41_shift.md): the frame R200 once, then one meaning per instruction. -/

namespace Sys2Proof.Machine

/-- The frame R200: the count is read before Rx is written. -/
def shiftOp (rule : Word → Nat → Flags → Word × Flags) (rd : Reg) (n : Count) (s : State) :
    Host.Outcome State Fault Refusal :=
  let r := rule (s.reg rd) (countValue n s) s.fl
  .next (next 2 s ((s.setReg rd r.1).setFl r.2))

/-- ASL (R201). -/
def execAsl (rd : Reg) (n : Count) (s : State) : Host.Outcome State Fault Refusal := shiftOp aslRule rd n s

/-- LSL (R202): the same result and flags as ASL. -/
def execLsl (rd : Reg) (n : Count) (s : State) : Host.Outcome State Fault Refusal := shiftOp aslRule rd n s

/-- ROL (R205). -/
def execRol (rd : Reg) (n : Count) (s : State) : Host.Outcome State Fault Refusal := shiftOp rolRule rd n s

/-- RNL (R207). -/
def execRnl (rd : Reg) (n : Count) (s : State) : Host.Outcome State Fault Refusal := shiftOp rnlRule rd n s

/-- ASR (R203). -/
def execAsr (rd : Reg) (n : Count) (s : State) : Host.Outcome State Fault Refusal := shiftOp asrRule rd n s

/-- LSR (R204). -/
def execLsr (rd : Reg) (n : Count) (s : State) : Host.Outcome State Fault Refusal := shiftOp lsrRule rd n s

/-- ROR (R206). -/
def execRor (rd : Reg) (n : Count) (s : State) : Host.Outcome State Fault Refusal := shiftOp rorRule rd n s

/-- RNR (R208). -/
def execRnr (rd : Reg) (n : Count) (s : State) : Host.Outcome State Fault Refusal := shiftOp rnrRule rd n s

end Sys2Proof.Machine
end

