-- ==== Sys2Proof/Machine/Stack.lean ====
section
/-! DEFINITION. PSH, POP and RTS (spec/48_stack.md). -/

namespace Sys2Proof.Machine

/-- A transfer that the list of the instruction selects, or nothing (R306). -/
def when (b : Bool) (f : State → Res Unit) (s : State) : Res Unit := if b then f s else .ok () s

/-- A push of PS: its defined bits, and bits 7 to 0 as 10_state.md R43 says. -/
def pushPs (s : State) : Res Unit := pushPair (readPsLow s).1 (statusByte s.ps) (readPsLow s).2

/-- A push of FL: its defined bits, and free values below (10_state.md R43). -/
def pushFl (s : State) : Res Unit := push (readFl s).1 (readFl s).2

/-- A pop into FL. -/
def popFl (s : State) : Res Unit := (popPair s).bind fun f t => .ok () (t.setFl (flagsOf f.2))

/-- A pop into PS, stored as popped, with the bank map reloaded where M changes (R305, 20_memory.md R79). -/
def popPs (s : State) : Res Unit := (popPair s).bind fun q t => .ok () (writePs (statusOf q.2) t)

/-- A pop into a general register. -/
def popReg (r : Reg) (s : State) : Res Unit := (pop s).bind fun v t => .ok () (t.setReg r v)

/-- A pop into USP. -/
def popUsp (s : State) : Res Unit := (pop s).bind fun v t => .ok () (t.setUsp v)

/-- A pop into SP, which ends with the popped value (R305). -/
def popSp (s : State) : Res Unit := (pop s).bind fun v t => .ok () (t.setSp v)

/-- The end of PSH or POP with PS in its list: UnprivOpcode in User mode, after the other transfers (R309). -/
def endPs (listed : Bool) (s t : State) (pc : Word) : Res Unit :=
  if listed && !s.ps.S then .raise .unprivOpcode t else .ok () (t.setPc pc)

/-- PSH of general registers (R302): R0 first. -/
def execPshGeneral (list : BitVec 8) (s : State) : Host.Outcome State Fault Refusal :=
  finish s <| (forEach (fun r t => when (list.getLsbD r.val) (push (t.reg r)) t) [0, 1, 2, 3, 4, 5, 6, 7] s).bind
    fun _ t => .ok () (next 2 s t)

/-- PSH of special registers (R303): SP and USP as they were before, PS, the address of the next instruction, FL. -/
def execPshSpecial (list : BitVec 5) (s : State) : Host.Outcome State Fault Refusal :=
  finish s <| (when (list.getLsbD 0) (push s.sp) s).bind fun _ t =>
    (when (list.getLsbD 1) (push s.usp) t).bind fun _ t =>
    (when (list.getLsbD 2 && s.ps.S) pushPs t).bind fun _ t =>
    (when (list.getLsbD 3) (push (npc 2 s)) t).bind fun _ t =>
    (when (list.getLsbD 4) pushFl t).bind fun _ t =>
    endPs (list.getLsbD 2) s t (npc 2 s)

/-- POP of general registers (R304): R7 first. -/
def execPopGeneral (list : BitVec 8) (s : State) : Host.Outcome State Fault Refusal :=
  finish s <| (forEach (fun r t => when (list.getLsbD r.val) (popReg r) t) [7, 6, 5, 4, 3, 2, 1, 0] s).bind
    fun _ t => .ok () (next 2 s t)

/-- POP of special registers (R305): FL, PC, PS, USP, SP, each with the stack pointer PS.S selects at that moment. -/
def execPopSpecial (list : BitVec 5) (s : State) : Host.Outcome State Fault Refusal :=
  finish s <| (when (list.getLsbD 4) popFl s).bind fun _ t =>
    (if list.getLsbD 3 then pop t else .ok (npc 2 s) t).bind fun p t =>
    (when (list.getLsbD 2 && s.ps.S) popPs t).bind fun _ t =>
    (when (list.getLsbD 1) popUsp t).bind fun _ t =>
    (when (list.getLsbD 0) popSp t).bind fun _ t =>
    endPs (list.getLsbD 2) s t p

/-- RTS (47_jump_call.md R283): POP of PC alone. -/
def execRts (s : State) : Host.Outcome State Fault Refusal :=
  finish s <| (pop s).bind fun v t => .ok () (t.setPc v)

end Sys2Proof.Machine
end

