-- ==== Sys2Proof/Machine/Undefined.lean ====
section
/-! DEFINITION. The encodings the spec leaves undefined (spec/30_encoding.md R134, spec/60_exceptions.md R368): each raises
UndefOpcode in either mode, with the address of its word as return address and nothing else done. -/

namespace Sys2Proof.Machine

/-- STO in Immediate mode (40_alu.md R163). -/
def execUndefStoImm (s : State) : Host.Outcome State Fault Refusal := undefined s

/-- STO in Register mode (40_alu.md R163). -/
def execUndefStoReg (s : State) : Host.Outcome State Fault Refusal := undefined s

/-- STO.8 in Immediate mode (40_alu.md R181). -/
def execUndefSto8Imm (s : State) : Host.Outcome State Fault Refusal := undefined s

/-- STO.8 in Register mode (40_alu.md R181). -/
def execUndefSto8Reg (s : State) : Host.Outcome State Fault Refusal := undefined s

/-- Low octet $9A (43_branch.md R453). -/
def execUndefBranchA (s : State) : Host.Outcome State Fault Refusal := undefined s

/-- Low octet $9B (43_branch.md R453). -/
def execUndefBranchB (s : State) : Host.Outcome State Fault Refusal := undefined s

/-- Low octet $9C (43_branch.md R453). -/
def execUndefBranchC (s : State) : Host.Outcome State Fault Refusal := undefined s

/-- Low octet $9D (43_branch.md R453). -/
def execUndefBranchD (s : State) : Host.Outcome State Fault Refusal := undefined s

/-- Low octet $9E (43_branch.md R453). -/
def execUndefBranchE (s : State) : Host.Outcome State Fault Refusal := undefined s

/-- Low octet $B4 with W[9:8] = 10 (49_processor.md R332). -/
def execUndefMim2 (s : State) : Host.Outcome State Fault Refusal := undefined s

/-- Low octet $B4 with W[9:8] = 11 (49_processor.md R332). -/
def execUndefMim3 (s : State) : Host.Outcome State Fault Refusal := undefined s

/-- Low octet $B5. -/
def execUndefB5 (s : State) : Host.Outcome State Fault Refusal := undefined s

/-- Low octets $B6 and $B7. -/
def execUndefB6 (_ : BitVec 1) (s : State) : Host.Outcome State Fault Refusal := undefined s

/-- Low octets $BC to $BF. -/
def execUndefBC (_ : BitVec 2) (s : State) : Host.Outcome State Fault Refusal := undefined s

/-- Low octets $C8 to $CB. -/
def execUndefC8 (_ : BitVec 2) (s : State) : Host.Outcome State Fault Refusal := undefined s

/-- Low octets $E0 to $FF. -/
def execUndefE0 (_ : BitVec 5) (s : State) : Host.Outcome State Fault Refusal := undefined s

end Sys2Proof.Machine
end

