-- ==== Sys2Proof/Machine/Dispatch.lean ====
section
/-! DEFINITION. One arm per instruction, each a call of its meaning. -/

namespace Sys2Proof.Machine

/-- What an instruction does (the meanings cite the rules). -/
def exec (i : Instr) (s : State) : Host.Outcome State Fault Refusal :=
  match i with
  | .lod rd m => Sys2Proof.Machine.execLod rd m s
  | .sto rd m => Sys2Proof.Machine.execSto rd m s
  | .add rd m => Sys2Proof.Machine.execAdd rd m s
  | .sub rd m => Sys2Proof.Machine.execSub rd m s
  | .adc rd m => Sys2Proof.Machine.execAdc rd m s
  | .sbc rd m => Sys2Proof.Machine.execSbc rd m s
  | .mul rd m => Sys2Proof.Machine.execMul rd m s
  | .div rd m => Sys2Proof.Machine.execDiv rd m s
  | .mli rd m => Sys2Proof.Machine.execMli rd m s
  | .dvi rd m => Sys2Proof.Machine.execDvi rd m s
  | .mod rd m => Sys2Proof.Machine.execMod rd m s
  | .mdi rd m => Sys2Proof.Machine.execMdi rd m s
  | .and rd m => Sys2Proof.Machine.execAnd rd m s
  | .orr rd m => Sys2Proof.Machine.execOrr rd m s
  | .eor rd m => Sys2Proof.Machine.execEor rd m s
  | .not rd m => Sys2Proof.Machine.execNot rd m s
  | .cmp rd m => Sys2Proof.Machine.execCmp rd m s
  | .neg rd m => Sys2Proof.Machine.execNeg rd m s
  | .undefStoImm => Sys2Proof.Machine.execUndefStoImm s
  | .undefStoReg => Sys2Proof.Machine.execUndefStoReg s
  | .lod8 rd m => Sys2Proof.Machine.execLod8 rd m s
  | .sto8 rd m => Sys2Proof.Machine.execSto8 rd m s
  | .undefSto8Imm => Sys2Proof.Machine.execUndefSto8Imm s
  | .undefSto8Reg => Sys2Proof.Machine.execUndefSto8Reg s
  | .bcc off => Sys2Proof.Machine.execBcc off s
  | .bcs off => Sys2Proof.Machine.execBcs off s
  | .bne off => Sys2Proof.Machine.execBne off s
  | .beq off => Sys2Proof.Machine.execBeq off s
  | .bpl off => Sys2Proof.Machine.execBpl off s
  | .bmi off => Sys2Proof.Machine.execBmi off s
  | .bvc off => Sys2Proof.Machine.execBvc off s
  | .bvs off => Sys2Proof.Machine.execBvs off s
  | .bug off => Sys2Proof.Machine.execBug off s
  | .bsg off => Sys2Proof.Machine.execBsg off s
  | .undefBranchA => Sys2Proof.Machine.execUndefBranchA s
  | .undefBranchB => Sys2Proof.Machine.execUndefBranchB s
  | .undefBranchC => Sys2Proof.Machine.execUndefBranchC s
  | .undefBranchD => Sys2Proof.Machine.execUndefBranchD s
  | .undefBranchE => Sys2Proof.Machine.execUndefBranchE s
  | .baw off => Sys2Proof.Machine.execBaw off s
  | .asl rd n => Sys2Proof.Machine.execAsl rd n s
  | .lsl rd n => Sys2Proof.Machine.execLsl rd n s
  | .rol rd n => Sys2Proof.Machine.execRol rd n s
  | .rnl rd n => Sys2Proof.Machine.execRnl rd n s
  | .asr rd n => Sys2Proof.Machine.execAsr rd n s
  | .lsr rd n => Sys2Proof.Machine.execLsr rd n s
  | .ror rd n => Sys2Proof.Machine.execRor rd n s
  | .rnr rd n => Sys2Proof.Machine.execRnr rd n s
  | .bit rd n => Sys2Proof.Machine.execBit rd n s
  | .btx rd n => Sys2Proof.Machine.execBtx rd n s
  | .btc rd n => Sys2Proof.Machine.execBtc rd n s
  | .bts rd n => Sys2Proof.Machine.execBts rd n s
  | .swo rd rs op => Sys2Proof.Machine.execSwo rd rs op s
  | .fpa rx ry => Sys2Proof.Machine.execFpa rx ry s
  | .fps rx ry => Sys2Proof.Machine.execFps rx ry s
  | .fpm rx ry => Sys2Proof.Machine.execFpm rx ry s
  | .fpd rx ry => Sys2Proof.Machine.execFpd rx ry s
  | .sef mask => Sys2Proof.Machine.execSef mask s
  | .clf mask => Sys2Proof.Machine.execClf mask s
  | .pshGeneral list => Sys2Proof.Machine.execPshGeneral list s
  | .pshSpecial list => Sys2Proof.Machine.execPshSpecial list s
  | .popGeneral list => Sys2Proof.Machine.execPopGeneral list s
  | .popSpecial list => Sys2Proof.Machine.execPopSpecial list s
  | .rts => Sys2Proof.Machine.execRts s
  | .mim rv ra => Sys2Proof.Machine.execMim rv ra s
  | .mia ra => Sys2Proof.Machine.execMia ra s
  | .undefMim2 => Sys2Proof.Machine.execUndefMim2 s
  | .undefMim3 => Sys2Proof.Machine.execUndefMim3 s
  | .undefB5 => Sys2Proof.Machine.execUndefB5 s
  | .undefB6 lo => Sys2Proof.Machine.execUndefB6 lo s
  | .adi rd v => Sys2Proof.Machine.execAdi rd v s
  | .sbi rd v => Sys2Proof.Machine.execSbi rd v s
  | .inc rd => Sys2Proof.Machine.execInc rd s
  | .dec rd => Sys2Proof.Machine.execDec rd s
  | .tsr rd sr => Sys2Proof.Machine.execTsr rd sr s
  | .trs rs sr => Sys2Proof.Machine.execTrs rs sr s
  | .undefBC lo => Sys2Proof.Machine.execUndefBC lo s
  | .jmp m => Sys2Proof.Machine.execJmp m s
  | .jsr m => Sys2Proof.Machine.execJsr m s
  | .jmu m => Sys2Proof.Machine.execJmu m s
  | .jcx => Sys2Proof.Machine.execJcx s
  | .hwq op => Sys2Proof.Machine.execHwq op s
  | .hwqCount => Sys2Proof.Machine.execHwqCount s
  | .hwqQuery => Sys2Proof.Machine.execHwqQuery s
  | .hwqMessage => Sys2Proof.Machine.execHwqMessage s
  | .hwqSetTick => Sys2Proof.Machine.execHwqSetTick s
  | .hwqGetTime => Sys2Proof.Machine.execHwqGetTime s
  | .slp => Sys2Proof.Machine.execSlp s
  | .swi => Sys2Proof.Machine.execSwi s
  | .rti => Sys2Proof.Machine.execRti s
  | .undefC8 lo => Sys2Proof.Machine.execUndefC8 lo s
  | .mmr rv ra => Sys2Proof.Machine.execMmr rv ra s
  | .mmw rv ra => Sys2Proof.Machine.execMmw rv ra s
  | .mml m => Sys2Proof.Machine.execMml m s
  | .mms m => Sys2Proof.Machine.execMms m s
  | .undefE0 lo => Sys2Proof.Machine.execUndefE0 lo s

end Sys2Proof.Machine
end

