-- ==== Sys2Proof/Machine/Run.lean ====
section
/-! DEFINITION. The instruction frame (spec/00_scope.md R11): Reset, then one asynchronous event, then the halted test, then
one instruction. -/

namespace Sys2Proof.Machine

/-- Steps 2 to 5 of R11: a halted processor does nothing (60_exceptions.md R388); else one instruction is fetched and run. -/
def runInstr (s : State) : Host.Outcome State Fault Refusal :=
  if s.halted then .next s
  else
    match fetchInstr s with
    | .ok i t => exec i t
    | .raise c t => finish s (.raise c t)

/-- R11: the environment's signals at this boundary are the head of `inputs`; where there is none, nothing is signalled
(log entry 7). -/
def runStep (s : State) : Host.Outcome State Fault Refusal :=
  match s.inputs with
  | [] => runInstr s
  | g :: rest =>
    let t := s.setInputs rest
    if g.reset then .next (performReset t)
    else
      match pickEvent g t with
      | some c => .next (takeEvent c g t)
      | none => runInstr t

end Sys2Proof.Machine
end

