-- ==== Sys2Proof/Machine/Step.lean ====
section
/-! DEFINITION. The step of the machine (spec/00_scope.md R11), and an instruction placed where it is fetched. -/

namespace Sys2Proof.Machine

/-- One step. -/
def step (s : State) : Host.Outcome State Fault Refusal := runStep s

/-- `s` with the instruction whose bits are `w` where the next step fetches, running and with nothing signalled
(log entry 19). -/
def State.withFetchWord (s : State) (nbits w : Nat) : State :=
  placeBytes (instrAddr s) (tableBytes nbits w) ((s.setHalted false).setInputs [])

end Sys2Proof.Machine
end

