-- ==== Sys2Proof/Machine/Environment.lean ====
section
/-! DEFINITION. The environment over a whole run, and its fairness (spec/60_exceptions.md R383, R392, R393; log entry 31).
State holds the signals of finitely many boundaries; here the environment presents a record at every boundary, without end. -/

namespace Sys2Proof.Machine

/-- What the environment presents at each step boundary of a run: `signalled(e, step)` (R383) and `RTC.tick(step)` (R393). -/
abbrev Environment := Nat → Signals

/-- One step at a boundary where the environment presents `g`. -/
def stepWith (g : Signals) (s : State) : Host.Outcome State Fault Refusal := step (s.setInputs [g])

/-- The first `n` steps from `s` under an environment. What answers `.next t` is the state at boundary `n`. -/
def runUnder (env : Environment) (s : State) : Nat → Host.Outcome State Fault Refusal
  | 0 => .next s
  | n + 1 =>
    match runUnder env s n with
    | .next t => stepWith (env n) t
    | .fault r => .fault r
    | .refused r => .refused r

/-- The run reaches boundary `n`, and the environment signals the event there. -/
def SignalledAt (env : Environment) (s : State) (c : Cause) (n : Nat) : Prop :=
  ∃ t, runUnder env s n = .next t ∧ signalled (env n) t c = true

/-- The run reaches boundary `n`, and the event may be taken there: it is signalled, PS does not mask it, and there is no
Reset, which comes first (R387). -/
def EligibleAt (env : Environment) (s : State) (c : Cause) (n : Nat) : Prop :=
  ∃ t, runUnder env s n = .next t ∧ (env n).reset = false ∧ c ∈ eligible (env n) t

/-- The event is taken at boundary `n`. -/
def TakenAt (env : Environment) (s : State) (c : Cause) (n : Nat) : Prop :=
  ∃ t, runUnder env s n = .next t ∧ (env n).reset = false ∧ pickEvent (env n) t = some c

/-- R383, D22: an event that stays signalled is eventually taken, where the processor lets it be taken again and again
(log entry 31). -/
def FairToEvents (env : Environment) (s : State) : Prop :=
  ∀ c n, (∀ m ≥ n, SignalledAt env s c m) → (∀ m ≥ n, ∃ k ≥ m, EligibleAt env s c k) → ∃ m ≥ n, TakenAt env s c m

/-- R392, D37: while the tick is enabled, Clock events keep arriving. That none arrives while it is disabled is in
`signalled`. -/
def FairClock (env : Environment) (s : State) : Prop :=
  ∀ n, (∀ m ≥ n, ∃ t, runUnder env s m = .next t ∧ t.tick ≠ .disabled) → ∃ m ≥ n, SignalledAt env s .clock m

/-- A fair environment for the run from `s`: all that the spec lets a model assume of the environment's order and timing
(R383, R392; 93_implementation_defined.md U17). -/
structure FairEnvironment (env : Environment) (s : State) : Prop where
  events : FairToEvents env s
  clock  : FairClock env s

end Sys2Proof.Machine
end

