-- ==== Sys2Proof/Safety.lean ====
section
/-! DEFINITION. The terms the claims use: what an instruction leaves unchanged, what it means that it completes, and the
invariant of the machine. -/

namespace Sys2Proof

/-- The base register that PostInc and PreDec change (30_encoding.md R125). -/
def Operand.base : Operand → Option Reg
  | .postInc r => some r
  | .preDec r => some r
  | _ => none

/-- What that register holds afterwards, for data of `size` bytes (30_encoding.md R125). -/
def Operand.baseAfter (m : Operand) (size : Word) (s : Machine.State) (r : Reg) : Word :=
  match m with
  | .postInc _ => s.reg r + size
  | .preDec _ => s.reg r - size
  | _ => s.reg r

/-- The length of an instruction with operand `m` (30_encoding.md R136). -/
def Operand.len : Operand → Word
  | .imm _ => 4
  | .abs _ => 4
  | .indOff _ _ => 4
  | _ => 2

/-- The address of a memory operand for data of `size` bytes (30_encoding.md R125): no address in Immediate and Register
modes. -/
def Operand.HasAddress (m : Operand) (size : Word) (s : Machine.State) (a : Word) : Prop :=
  match m with
  | .imm _ => False
  | .abs x => a = x
  | .reg _ => False
  | .ind r => a = s.reg r
  | .indOff r o => a = s.reg r + o
  | .postInc r => a = s.reg r
  | .preDec r => a = s.reg r - size
  | .indexed r i => a = s.reg r + s.reg i

end Sys2Proof

namespace Sys2Proof.Machine

-- What two states have in common.

/-- The same status and special registers, bank map, halted bit, clock, inputs and parameters. -/
structure SameStatus (s t : State) : Prop where
  ps       : t.ps = s.ps
  psClean  : t.psClean = s.psClean
  ia       : t.ia = s.ia
  ii       : t.ii = s.ii
  p2       : t.p2 = s.p2
  im       : ∀ k, t.bank k = s.bank k
  ramEpoch : t.ramEpoch = s.ramEpoch
  halted   : t.halted = s.halted
  tick     : t.tick = s.tick
  rtcTime  : t.rtcTime = s.rtcTime
  inputs   : t.inputs = s.inputs
  cfg      : t.cfg = s.cfg

/-- The same stack pointers. -/
structure SameStacks (s t : State) : Prop where
  ssp : t.ssp = s.ssp
  usp : t.usp = s.usp

/-- Every word of the MMU cache is the same. -/
def SameMmu (s t : State) : Prop := ∀ k, t.mmuWord k = s.mmuWord k

/-- Every word of the MMU cache is the same but for the A bits that stores set while the MMU is on (20_memory.md R86). -/
def SameMmuButAccessed (s t : State) : Prop :=
  ∀ k, t.mmuWord k = s.mmuWord k ∨
    (s.ps.M = true ∧ k.val % 2 = 1 ∧ t.mmuWord k = s.mmuWord k ||| 0x0800)

/-- Every byte of internal RAM and ROM reads the same. -/
structure SameMemory (s t : State) : Prop where
  ram : ∀ a, t.ramByte a = s.ramByte a
  rom : ∀ a, t.romByte a = s.romByte a

/-- The frame of an instruction that stores nothing: the registers that `keep` names, the status and special registers, the
stack pointers, the MMU cache and every byte of memory. -/
structure Unchanged (keep : Reg → Prop) (s t : State) : Prop where
  regs   : ∀ r, keep r → t.reg r = s.reg r
  status : SameStatus s t
  sps    : SameStacks s t
  mmu    : SameMmu s t
  memory : SameMemory s t

/-- What a change of PS, of the stack pointers or of PC leaves alone: the other special registers, the halted bit, the clock,
the inputs, the parameters and every byte of memory. -/
structure SameRest (s t : State) : Prop where
  ia       : t.ia = s.ia
  ii       : t.ii = s.ii
  p2       : t.p2 = s.p2
  ramEpoch : t.ramEpoch = s.ramEpoch
  halted   : t.halted = s.halted
  tick     : t.tick = s.tick
  rtcTime  : t.rtcTime = s.rtcTime
  inputs   : t.inputs = s.inputs
  cfg      : t.cfg = s.cfg
  memory   : SameMemory s t

/-- Entry `k` of the default bank map (20_memory.md R78). -/
def defaultBank (r : Bool) (k : Fin 16) : BankRef := if k.val = 0 then ⟨if r then .ram else .rom, 0⟩ else ⟨.ram, k.val⟩

/-- The bank map after PS was written: as before where M is the same, else the defaults by the new R (20_memory.md R79). -/
def MapFollowsM (s t : State) : Prop :=
  ∀ k, t.bank k = if t.ps.M = s.ps.M then s.bank k else defaultBank t.ps.R k

-- Reads of RAM and ROM.

/-- An access of kind `k` at logical address `a` reaches a byte of internal RAM or ROM, which is `b`. -/
def HoldsByte (s : State) (k : Access) (a : Word) (b : Byte) : Prop :=
  (∃ p, translate s a k = .ok (.ram p) ∧ s.ramByte p = b) ∨ ∃ p, translate s a k = .ok (.rom p) ∧ s.romByte p = b

/-- The word at logical address `a`, low byte first, is `v`, in internal RAM or ROM (20_memory.md R62). -/
def HoldsWord (s : State) (a v : Word) : Prop :=
  HoldsByte s .read a (v.extractLsb' 0 8) ∧ HoldsByte s .read (a + 1) (v.extractLsb' 8 8)

-- Stores.

/-- A write at logical address `a` reaches byte `k` of internal RAM. -/
def WritesByte (s : State) (a : Word) (k : Nat) : Prop := translate s a .write = .ok (.ram k)

/-- Every byte of internal RAM that no write at the `n` logical addresses from `a` up reaches, and every byte of ROM, is the
same. -/
def SameOutside (s : State) (a : Word) (n : Nat) (t : State) : Prop :=
  (∀ k, (∀ j < n, ¬ WritesByte s (a + BitVec.ofNat 16 j) k) → t.ramByte k = s.ramByte k) ∧
    ∀ k, t.romByte k = s.romByte k

/-- The word `v` stands at logical address `a`, low byte first, where its bytes are internal RAM (20_memory.md R62). -/
def StoredWord (s : State) (a v : Word) (t : State) : Prop :=
  (∀ k, WritesByte s a k → t.ramByte k = loByte v) ∧ ∀ k, WritesByte s (a + 1) k → t.ramByte k = hiByte v

/-- The frame of an instruction that stores `n` bytes from logical address `a` up: the registers that `keep` names, the status
and special registers, the MMU cache but for A bits, and every other byte of memory. -/
structure UnchangedBut (keep : Reg → Prop) (s : State) (a : Word) (n : Nat) (t : State) : Prop where
  regs   : ∀ r, keep r → t.reg r = s.reg r
  status : SameStatus s t
  mmu    : SameMmuButAccessed s t
  memory : SameOutside s a n t

-- Completion.

/-- The address of the instruction at `s.pc` (20_memory.md R66). -/
abbrev addrOf (s : State) : Word := s.pc &&& 0xFFFE

/-- A two-byte instruction without memory access completes: register `rd` holds `r`, the flags are `f`, PC is at the next
instruction, and nothing else has changed; the bus history, the model's own (log entry 10), has no new event. -/
def CompletesReg (i : Instr) (s : State) (rd : Reg) (r : Word) (f : Flags) : Prop :=
  ∃ u, exec i s = .next u ∧ u.reg rd = r ∧ u.fl = f ∧ u.pc = addrOf s + 2 ∧ u.bus = s.bus ∧
    Unchanged (fun k => k ≠ rd) s u

/-- An instruction with operand `m` of `size` bytes completes: register `rd` holds `r`, the flags are `f`, the base register
of the operand is updated, PC is at the next instruction, and nothing else has changed. -/
def CompletesAlu (i : Instr) (m : Operand) (size : Word) (s : State) (rd : Reg) (r : Word) (f : Flags) : Prop :=
  ∃ u, exec i s = .next u ∧ u.reg rd = r ∧ u.fl = f ∧ u.pc = addrOf s + m.len ∧
    (∀ k, m.base = some k → k ≠ rd → u.reg k = m.baseAfter size s k) ∧
    Unchanged (fun k => k ≠ rd ∧ m.base ≠ some k) s u

/-- An interrupt is the whole effect of the instruction: the sequence runs with return address `ret` from the state `t`. -/
def Takes (i : Instr) (s : State) (c : Cause) (ret : Word) (t : State) : Prop := exec i s = .next (takeInterrupt c ret t)

-- Stack transfers.

/-- The words of a list pushed one after the other. -/
def pushWords : List Word → State → Res Unit
  | [], s => .ok () s
  | v :: l, s => (push v s).bind fun _ t => pushWords l t

/-- `n` words popped one after the other. -/
def popWords : Nat → State → Res (List Word)
  | 0, s => .ok [] s
  | n + 1, s => (pop s).bind fun v t => (popWords n t).bind fun l u => .ok (v :: l) u

/-- The next `n` words below SP may be written. -/
def CanPush (n : Nat) (s : State) : Prop :=
  ∀ i < n, ∃ p, translatePair s (s.sp - BitVec.ofNat 16 (2 * (i + 1))) .write = .ok p

/-- The next `n` words from SP up may be read. -/
def CanPop (n : Nat) (s : State) : Prop :=
  ∀ i < n, ∃ p, translatePair s (s.sp + BitVec.ofNat 16 (2 * i)) .read = .ok p

/-- A pop where `b` holds. -/
def popIf (b : Bool) (s : State) : Res Word := if b then pop s else .ok 0 s

/-- The transfers of a POP of special registers with PS skipped in User mode (48_stack.md R305, R309): FL, PC, PS, USP and SP
are popped in this order as `f`, `c`, `q`, `us` and `v`, each with the stack pointer of that moment; `t` is the state after
the last, with FL and PC not yet written. -/
def PopsSpecial (l : BitVec 5) (s : State) (f c q us v : Word) (t : State) : Prop :=
  ∃ s1 s2 s3 s4 s5, popIf (l.getLsbD 4) s = .ok f s1 ∧ popIf (l.getLsbD 3) s1 = .ok c s2 ∧
    popIf (l.getLsbD 2 && s.ps.S) s2 = .ok q s3 ∧
    popIf (l.getLsbD 1) (if l.getLsbD 2 && s.ps.S then writePs (statusOf (hiByte q)) s3 else s3) = .ok us s4 ∧
    popIf (l.getLsbD 0) (if l.getLsbD 1 then s4.setUsp us else s4) = .ok v s5 ∧
    t = if l.getLsbD 0 then s5.setSp v else s5

-- The invariant.

/-- The chip has the bank (20_memory.md R74). -/
def BankExists (cfg : Params) (b : BankRef) : Prop :=
  match b.kind with
  | .ram => b.index < cfg.nram
  | .rom => b.index < cfg.nrom

/-- The invariant every step keeps: memory in canonical form and within the chip's RAM, every entry of the bank map a bank
the chip has, PS at its reset value while nothing has written it. -/
structure State.Inv (s : State) : Prop where
  ramWf    : Memory.wf ramDefault s.ram
  ramRange : ∀ c ∈ s.ram, c.1 < s.cfg.nram * 4096
  romWf    : Memory.wf romDefault s.cfg.rom
  banks    : ∀ k, BankExists s.cfg (s.bank k)
  clean    : s.psClean = true → s.ps = Status.afterReset
  epoch    : s.ramEpoch < s.free

end Sys2Proof.Machine
end

