-- ==== Sys2Proof/WellFormed.lean ====
section
/-! DEFINITION. Which terms of Instr an encoding stands for. Most limits are in the types of the operands (3-bit
registers, 4-bit counts, 5-bit immediates); the rest is checked here. -/

namespace Sys2Proof

/-- A store goes to memory: Immediate and Register modes are the undefined rows (30_encoding.md R134 item 2). -/
def Operand.isMemory : Operand → Bool
  | .imm _ => false
  | .reg _ => false
  | _ => true

/-- The checks: STO and STO.8 have a memory operand; ADI and SBI with v = 0 are INC and DEC (30_encoding.md R138); POP of
PC alone is RTS; HWQ $00 to $04 have rows of their own (opcode_table.json; log entry 17). -/
def Instr.wellFormed : Instr → Bool
  | .sto _ m => m.isMemory
  | .sto8 _ m => m.isMemory
  | .adi _ v => v ≠ 0
  | .sbi _ v => v ≠ 0
  | .popSpecial l => l ≠ 0b01000#5
  | .hwq op => 5 ≤ op.toNat
  | _ => true

end Sys2Proof
end

