-- ==== Sys2Proof/Certificates/Slice0/Obligations.lean ====
section
/-! DEFINITION. The statements for the provers. Each docstring names the rules it formalises; "D<n>" is a decision of
spec/92_eei_decisions.md, a choice of the spec where its source is silent. -/

open Sys2Proof Sys2Proof.Machine

-- Translation and memory.

/-- With the MMU off an access never faults and reaches the byte at the offset `addr[11:0]` of the internal bank that the bank
map names for `addr[15:12]`, where the chip has that bank (20_memory.md R78, R88; D9). -/
def Obligations.TranslateMmuOffByBankMap : Prop := ∀ (s : State) (a : Word) (k : Access), s.ps.M = false →
  ∃ l, translate s a k = .ok l ∧ ∀ (j : Fin 16), j.val = a.toNat / 4096 →
    ((s.bank j).kind = .ram → (s.bank j).index < s.cfg.nram → l = .ram ((s.bank j).index * 4096 + a.toNat % 4096)) ∧
    ((s.bank j).kind = .rom → (s.bank j).index < s.cfg.nrom → l = .rom ((s.bank j).index * 4096 + a.toNat % 4096)) ∧
    (¬ BankExists s.cfg (s.bank j) → l = .absent)

/-- With the MMU on an access that passes the checks reaches the physical address `sel : addr[11:0]`: the bus index is
`sel[19:12]`, the bank `sel[11:0]`, where `sel` is `MMU[2k+1][3:0] : MMU[2k]`; bus index 0 is internal memory by Dev0Bank
(20_memory.md R73, R82, R83, R84; D26, D28). -/
def Obligations.TranslateMmuOnByCache : Prop := ∀ (s : State) (a : Word) (k : Access) (l : Loc), s.ps.M = true →
  translate s a k = .ok l → ∀ (i0 i1 : Fin 32), i0.val = 2 * (a.toNat / 4096) → i1.val = 2 * (a.toNat / 4096) + 1 →
    let sel := (s.mmuWord i1).toNat % 16 * 65536 + (s.mmuWord i0).toNat
    (sel / 4096 ≠ 0 → l = .device (sel / 4096) (sel % 4096) (a.toNat % 4096)) ∧
    (sel / 4096 = 0 → s.cfg.dev0.lookup sel = none → l = .absent) ∧
    (sel / 4096 = 0 → ∀ b, s.cfg.dev0.lookup sel = some b →
      (b.kind = .ram → b.index < s.cfg.nram → l = .ram (b.index * 4096 + a.toNat % 4096)) ∧
      (b.kind = .rom → b.index < s.cfg.nrom → l = .rom (b.index * 4096 + a.toNat % 4096)) ∧
      (¬ BankExists s.cfg b → l = .absent))

/-- When and how translation faults (20_memory.md R73, R85, R87; D26): only while the MMU is on; exactly where P is set, or
where the supervisor-only, write or execute check fails; the code U W E is one of the six rows of R87, all clear exactly for a
bank that is not present; a read has W = E = 0; U is set exactly where the supervisor-only check failed. -/
def Obligations.BankFaultCodes : Prop := ∀ (s : State) (a : Word) (k : Access) (i1 : Fin 32),
  i1.val = 2 * (a.toNat / 4096) + 1 →
  let w1 := s.mmuWord i1
  ((∃ c, translate s a k = .error c) ↔ s.ps.M = true ∧ (w1.getLsbD 12 = true ∨ (s.ps.S = false ∧ w1.getLsbD 15 = true) ∨
    (k = .write ∧ w1.getLsbD 14 = true) ∨ (k = .exec ∧ w1.getLsbD 13 = true))) ∧
  ∀ c, translate s a k = .error c → ∃ u w e, c = .bankFault a u w e ∧
    (u, w, e) ∈ [(false, false, false), (false, false, true), (false, true, false), (true, false, false),
      (true, false, true), (true, true, false)] ∧
    ((u, w, e) = (false, false, false) ↔ w1.getLsbD 12 = true) ∧
    (w1.getLsbD 12 = false → (u = true ↔ s.ps.S = false ∧ w1.getLsbD 15 = true) ∧ (w = true ↔ k = .write) ∧
      (e = true ↔ k = .exec))

/-- A 16-bit store to internal RAM: the word reads back, its bytes read back one by one, low byte first, no other byte of RAM
or ROM changes, and with the MMU on exactly the A bits of the banks of its two bytes are set (20_memory.md R62, R65, R70, R71,
R86; D7, D26). -/
def Obligations.WordRoundTrip : Prop := ∀ (s : State) (a v : Word) (p q : Nat),
  WritesByte s a p → WritesByte s (a + 1) q →
  ∃ t, writeWord a v s = .ok () t ∧ readWord .read a t = .ok v t ∧ readByte .read a t = .ok (v.extractLsb' 0 8) t ∧
    readByte .read (a + 1) t = .ok (v.extractLsb' 8 8) t ∧
    (∀ x, x ≠ p → x ≠ q → t.ramByte x = s.ramByte x) ∧ (∀ x, t.romByte x = s.romByte x) ∧
    (∀ r, t.reg r = s.reg r) ∧ SameStatus s t ∧ t.fl = s.fl ∧ t.pc = s.pc ∧ SameStacks s t ∧
    ∀ k, t.mmuWord k = if s.ps.M = true ∧ (k.val = 2 * (a.toNat / 4096) + 1 ∨ k.val = 2 * ((a + 1).toNat / 4096) + 1)
      then s.mmuWord k ||| 0x0800 else s.mmuWord k

/-- A 16-bit access that faults moves nothing, and its fault is that of its first failing byte, the low one's first
(20_memory.md R65, R71, 60_exceptions.md R372; D7, D24). A write that reaches ROM is dropped and raises nothing (R77). -/
def Obligations.FaultsAndDroppedWrites : Prop :=
  (∀ (s : State) (a v : Word) (c : Cause), translate s a .write = .error c → writeWord a v s = .raise c s) ∧
  (∀ (s : State) (a v : Word) (c : Cause) (l : Loc), translate s a .write = .ok l →
    translate s (a + 1) .write = .error c → writeWord a v s = .raise c s) ∧
  (∀ (s : State) (a : Word) (c : Cause), translate s a .read = .error c → readWord .read a s = .raise c s) ∧
  (∀ (s : State) (a : Word) (c : Cause) (l : Loc), translate s a .read = .ok l →
    translate s (a + 1) .read = .error c → readWord .read a s = .raise c s) ∧
  (∀ (s : State) (a : Word) (b : Byte) (k : Nat), translate s a .write = .ok (.rom k) →
    ∃ t, writeByte a b s = .ok () t ∧ SameMemory s t ∧ (s.ps.M = false → t = s))

/-- What an operand reads (30_encoding.md R125, R126; D15). Immediate and Register modes give the value without a change. In
the memory modes the address is computed modulo 2^16, the word (the byte for size 1) is read at it, and PostInc and PreDec
then leave the base register 2 (1) higher or lower; nothing else changes. With the MMU off every operand can be read. -/
def Obligations.OperandValueByMode : Prop := ∀ (s : State),
  (∀ v, readOperand (.imm v) s = .ok v s ∧ readOperand8 (.imm v) s = .ok (v.extractLsb' 0 8) s) ∧
  (∀ r, readOperand (.reg r) s = .ok (s.reg r) s ∧ readOperand8 (.reg r) s = .ok ((s.reg r).extractLsb' 0 8) s) ∧
  (∀ m a p q, m.HasAddress 2 s a → translate s a .read = .ok (.ram p) → translate s (a + 1) .read = .ok (.ram q) →
    ∃ u, readOperand m s = .ok (s.ramByte q ++ s.ramByte p) u ∧
      (∀ r, u.reg r = if m.base = some r then m.baseAfter 2 s r else s.reg r) ∧
      u.fl = s.fl ∧ u.pc = s.pc ∧ Unchanged (fun r => m.base ≠ some r) s u) ∧
  (∀ m a p, m.HasAddress 1 s a → translate s a .read = .ok (.ram p) →
    ∃ u, readOperand8 m s = .ok (s.ramByte p) u ∧
      (∀ r, u.reg r = if m.base = some r then m.baseAfter 1 s r else s.reg r) ∧
      u.fl = s.fl ∧ u.pc = s.pc ∧ Unchanged (fun r => m.base ≠ some r) s u) ∧
  (s.ps.M = false → ∀ m, (∃ v t, readOperand m s = .ok v t) ∧ ∃ v t, readOperand8 m s = .ok v t)

/-- Several words pushed or popped (20_memory.md R75, 10_state.md R33, R34; D1): each push lowers SP by 2 and stores below it,
each pop raises SP by 2; the words stand in RAM where no later push overwrites them; popped words are those in RAM; nothing
else changes. With the MMU off every push and pop succeeds. -/
def Obligations.StackTransfersMoveWords : Prop :=
  (∀ (ws : List Word) (s : State), CanPush ws.length s → ∃ t, pushWords ws s = .ok () t ∧
    t.sp = s.sp - BitVec.ofNat 16 (2 * ws.length) ∧ (s.ps.S = true → t.usp = s.usp) ∧ (s.ps.S = false → t.ssp = s.ssp) ∧
    t.fl = s.fl ∧ t.pc = s.pc ∧
    UnchangedBut (fun _ => True) s (s.sp - BitVec.ofNat 16 (2 * ws.length)) (2 * ws.length) t ∧
    ∀ (i : Nat) (h : i < ws.length) (k : Nat),
      (∀ j < ws.length - 1 - i, ¬ WritesByte s (s.sp - BitVec.ofNat 16 (2 * ws.length) + BitVec.ofNat 16 (2 * j)) k ∧
        ¬ WritesByte s (s.sp - BitVec.ofNat 16 (2 * ws.length) + BitVec.ofNat 16 (2 * j + 1)) k) →
      (WritesByte s (s.sp - BitVec.ofNat 16 (2 * (i + 1))) k → t.ramByte k = (ws[i]).extractLsb' 0 8) ∧
      (WritesByte s (s.sp - BitVec.ofNat 16 (2 * (i + 1)) + 1) k → t.ramByte k = (ws[i]).extractLsb' 8 8)) ∧
  (∀ (n : Nat) (s : State), CanPop n s → ∃ ws t, popWords n s = .ok ws t ∧ ws.length = n ∧
    t.sp = s.sp + BitVec.ofNat 16 (2 * n) ∧ (s.ps.S = true → t.usp = s.usp) ∧ (s.ps.S = false → t.ssp = s.ssp) ∧
    t.fl = s.fl ∧ t.pc = s.pc ∧ (∀ r, t.reg r = s.reg r) ∧ SameStatus s t ∧ SameMmu s t ∧ SameMemory s t ∧
    ∀ (i : Nat) (h : i < ws.length) (p q : Nat),
      translate s (s.sp + BitVec.ofNat 16 (2 * i)) .read = .ok (.ram p) →
      translate s (s.sp + BitVec.ofNat 16 (2 * i) + 1) .read = .ok (.ram q) → ws[i] = s.ramByte q ++ s.ramByte p) ∧
  (∀ (n : Nat) (s : State), s.ps.M = false → CanPush n s ∧ CanPop n s)

-- ALU and AL8.

/-- LOD, AND, ORR, EOR, NOT by their instruction words (40_alu.md R162, R174, R175, R176, R177): `W[7:3]` selects the
instruction, Rx is `W[15:13]`; the result goes to Rx, N is its bit 15, Z tells zero, C and V are kept; nothing else changes but
the operand's base register and PC. -/
def Obligations.LoadAndLogicResultAndFlags : Prop := ∀ (w nw : Word) (s t : State) (v : Word),
  readOperand (aluOperand w nw) s = .ok v t →
  let m := aluOperand w nw
  let rd : Reg := ⟨w.toNat / 8192, by have := w.isLt; omega⟩
  let a := s.reg rd
  let completes (i : Instr) (r : Word) : Prop := decodeWords w nw = i ∧
    CompletesAlu i m 2 s rd r { N := r.getLsbD 15, Z := decide (r.toNat = 0), C := s.fl.C, V := s.fl.V }
  (w.toNat / 8 % 32 = 0b00000 → completes (.lod rd m) v) ∧
  (w.toNat / 8 % 32 = 0b01100 → completes (.and rd m) (a &&& v)) ∧
  (w.toNat / 8 % 32 = 0b01101 → completes (.orr rd m) (a ||| v)) ∧
  (w.toNat / 8 % 32 = 0b01110 → completes (.eor rd m) (a ^^^ v)) ∧
  (w.toNat / 8 % 32 = 0b01111 → completes (.not rd m) (~~~ v))

/-- ADD and ADC (40_alu.md R164, R166; D10, D12): the sum modulo 2^16; C is the carry out of bit 15 of the unbounded sum, V is
bit 15 of `~(a xor m) and (a xor r)`; ADC adds the incoming C, ADD does not look at it. -/
def Obligations.AddAdcResultAndFlags : Prop := ∀ (rd : Reg) (m : Operand) (s t : State) (v : Word), readOperand m s = .ok v t →
  let a := s.reg rd
  let c : Nat := if s.fl.C then 1 else 0
  let flags (r : Word) (sum : Nat) : Flags :=
    { N := r.getLsbD 15, Z := decide (r = 0), C := decide (65535 < sum), V := (~~~ (a ^^^ v) &&& (a ^^^ r)).getLsbD 15 }
  CompletesAlu (.add rd m) m 2 s rd (a + v) (flags (a + v) (a.toNat + v.toNat)) ∧
  CompletesAlu (.adc rd m) m 2 s rd (a + v + BitVec.ofNat 16 c)
    (flags (a + v + BitVec.ofNat 16 c) (a.toNat + v.toNat + c))

/-- SUB, SBC and NEG (40_alu.md R165, R167, R179; D10, D11, D12): the difference modulo 2^16, less one more in SBC where C was
clear; C is set exactly where there is no borrow, V is bit 15 of `(a xor m) and (a xor r)`. NEG gives 0 - M, keeps C, and sets
V exactly for M = $8000. -/
def Obligations.SubSbcNegResultAndFlags : Prop := ∀ (rd : Reg) (m : Operand) (s t : State) (v : Word), readOperand m s = .ok v t →
  let a := s.reg rd
  let b : Nat := if s.fl.C then 0 else 1
  let flags (r : Word) (noBorrow : Bool) : Flags :=
    { N := r.getLsbD 15, Z := decide (r = 0), C := noBorrow, V := ((a ^^^ v) &&& (a ^^^ r)).getLsbD 15 }
  CompletesAlu (.sub rd m) m 2 s rd (a - v) (flags (a - v) (decide (v.toNat ≤ a.toNat))) ∧
  CompletesAlu (.sbc rd m) m 2 s rd (a - v - BitVec.ofNat 16 b)
    (flags (a - v - BitVec.ofNat 16 b) (decide (v.toNat + b ≤ a.toNat))) ∧
  CompletesAlu (.neg rd m) m 2 s rd (- v)
    { N := (- v).getLsbD 15, Z := decide (v = 0), C := s.fl.C, V := decide (v = 0x8000) }

/-- CMP and the comparisons it leaves for the branches (40_alu.md R178, 43_branch.md R231; D18): no register is written but the
operand's base register, V is kept, and after it C says Rx >= M unsigned, N says Rx >= M signed, Z says equal, "C and not Z"
says greater unsigned, "N and not Z" says greater signed. -/
def Obligations.CompareForBranches : Prop := ∀ (rd : Reg) (m : Operand) (s t : State) (v : Word),
  readOperand m s = .ok v t →
  ∃ u, exec (.cmp rd m) s = .next u ∧ u.pc = addrOf s + m.len ∧ u.fl.V = s.fl.V ∧
    (u.fl.C = true ↔ v.toNat ≤ (s.reg rd).toNat) ∧ (u.fl.N = true ↔ v.toInt ≤ (s.reg rd).toInt) ∧
    (u.fl.Z = true ↔ s.reg rd = v) ∧
    ((u.fl.C && !u.fl.Z) = true ↔ v.toNat < (s.reg rd).toNat) ∧
    ((u.fl.N && !u.fl.Z) = true ↔ v.toInt < (s.reg rd).toInt) ∧
    (∀ k, m.base = some k → u.reg k = m.baseAfter 2 s k) ∧ Unchanged (fun k => m.base ≠ some k) s u

/-- MUL and MLI (40_alu.md R168, R170; D50): the 32-bit product, its high half to R0 first and its low half to Rx then, so that
Rx = R0 ends with the low half; Z tells a zero product, C a high half that is not zero; N is cleared by MUL and is the
product's sign in MLI; V is kept. -/
def Obligations.MultiplyGivesProduct : Prop := ∀ (rd : Reg) (m : Operand) (s t : State) (v : Word), readOperand m s = .ok v t →
  let completes (i : Instr) (p : BitVec 32) (n : Bool) : Prop :=
    ∃ u, exec i s = .next u ∧ u.reg rd = p.extractLsb' 0 16 ∧ (rd ≠ 0 → u.reg 0 = p.extractLsb' 16 16) ∧
      u.fl = { N := n, Z := decide (p = 0), C := decide (65536 ≤ p.toNat), V := s.fl.V } ∧ u.pc = addrOf s + m.len ∧
      (∀ k, m.base = some k → k ≠ rd → k ≠ 0 → u.reg k = m.baseAfter 2 s k) ∧
      Unchanged (fun k => k ≠ rd ∧ k ≠ 0 ∧ m.base ≠ some k) s u
  completes (.mul rd m) ((s.reg rd).setWidth 32 * v.setWidth 32) false ∧
  let p : BitVec 32 := (s.reg rd).signExtend 32 * v.signExtend 32
  completes (.mli rd m) p (p.getLsbD 31)

/-- DIV, MOD, DVI and MDI by a divisor that is not zero (40_alu.md R169, R171, R172, R173; D13): quotient and remainder,
unsigned and signed; the signed quotient is rounded toward zero and the signed remainder has the dividend's sign; DVI of $8000
by $FFFF gives $8000 and V; DIV clears N and keeps C and V, MOD and MDI keep C and V, DVI keeps C. -/
def Obligations.DivideGivesQuotientAndRemainder : Prop := ∀ (rd : Reg) (m : Operand) (s t : State) (v : Word), readOperand m s = .ok v t → v ≠ 0 →
  let a := s.reg rd
  CompletesAlu (.div rd m) m 2 s rd (a / v) { N := false, Z := decide (a.toNat < v.toNat), C := s.fl.C, V := s.fl.V } ∧
  CompletesAlu (.mod rd m) m 2 s rd (a % v)
    { N := (a % v).getLsbD 15, Z := decide (a % v = 0), C := s.fl.C, V := s.fl.V } ∧
  CompletesAlu (.dvi rd m) m 2 s rd (a.sdiv v)
    { N := (a.sdiv v).getLsbD 15, Z := decide (a.sdiv v = 0), C := s.fl.C, V := decide (a = 0x8000 ∧ v = 0xFFFF) } ∧
  CompletesAlu (.mdi rd m) m 2 s rd (a.srem v)
    { N := (a.srem v).getLsbD 15, Z := decide (a.srem v = 0), C := s.fl.C, V := s.fl.V }

/-- DIV, MOD, DVI and MDI by zero (40_alu.md R183, 60_exceptions.md R363, R371, R372; D14, D24): DivideByZero is taken with the
address of the instruction as return address, from the state after the operand was read: Rx (where it is not the base
register), every other register and the flags as they were, the base register updated. -/
def Obligations.DivideByZeroIsTaken : Prop := ∀ (rd : Reg) (m : Operand) (s t : State), readOperand m s = .ok 0 t →
  (∀ i ∈ [Instr.div rd m, .mod rd m, .dvi rd m, .mdi rd m], Takes i s .divideByZero (addrOf s) t) ∧
  t.fl = s.fl ∧ (∀ k, m.base = some k → t.reg k = m.baseAfter 2 s k) ∧ Unchanged (fun k => m.base ≠ some k) s t

/-- STO (40_alu.md R163; D15): the value Rx had when the instruction began is stored, low byte first, at the address of the
operand; then the base register is updated; no flag, no other register and no other byte of memory changes. -/
def Obligations.StoreWritesOperand : Prop := ∀ (rd : Reg) (m : Operand) (s t : State) (a : Word), m.HasAddress 2 s a →
  writeWord a (s.reg rd) s = .ok () t →
  ∃ u, exec (.sto rd m) s = .next u ∧ u.fl = s.fl ∧ u.pc = addrOf s + m.len ∧ SameStacks s u ∧
    StoredWord s a (s.reg rd) u ∧ (∀ k, m.base = some k → u.reg k = m.baseAfter 2 s k) ∧
    UnchangedBut (fun k => m.base ≠ some k) s a 2 u

/-- LOD.8 and STO.8 (40_alu.md R180, R181): one byte is loaded, zero-extended, with N from its bit 7, Z where it is zero, C and
V kept; the low byte of Rx is stored and the byte beside it is not; the base register moves by 1. -/
def Obligations.LoadStoreOneByte : Prop :=
  (∀ (rd : Reg) (m : Operand) (s t : State) (b : Byte), readOperand8 m s = .ok b t →
    CompletesAlu (.lod8 rd m) m 1 s rd (BitVec.ofNat 16 b.toNat)
      { N := decide (128 ≤ b.toNat), Z := decide (b.toNat = 0), C := s.fl.C, V := s.fl.V }) ∧
  (∀ (rd : Reg) (m : Operand) (s t : State) (a : Word), m.HasAddress 1 s a →
    writeByte a ((s.reg rd).extractLsb' 0 8) s = .ok () t →
    ∃ u, exec (.sto8 rd m) s = .next u ∧ u.fl = s.fl ∧ u.pc = addrOf s + m.len ∧ SameStacks s u ∧
      (∀ k, WritesByte s a k → u.ramByte k = (s.reg rd).extractLsb' 0 8) ∧
      (∀ k, m.base = some k → u.reg k = m.baseAfter 1 s k) ∧ UnchangedBut (fun k => m.base ≠ some k) s a 1 u)

/-- The undefined encodings by their words (30_encoding.md R134, 60_exceptions.md R368, R371; D17, D41): the 43 unassigned low
octets, STO and STO.8 in Immediate and Register modes, the branch codes $9A to $9E, and $B4 with `W[9:8]` of 10 or 11 take
UndefOpcode in either mode, with the address of the word as return address and nothing else done. -/
def Obligations.UndefinedOpcodesAreTaken : Prop :=
  (∀ (w nw : Word) (s : State),
    let lo := w.toNat % 256
    (lo ∈ [0xB5, 0xB6, 0xB7, 0xBC, 0xBD, 0xBE, 0xBF, 0xC8, 0xC9, 0xCA, 0xCB] ∨ 0xE0 ≤ lo ∨ (0x9A ≤ lo ∧ lo ≤ 0x9E) ∨
      lo = 0x09 ∨ lo = 0xD9 ∨ ((lo = 0x08 ∨ lo = 0xD8) ∧ w.getLsbD 8 = false) ∨ (lo = 0xB4 ∧ w.getLsbD 9 = true)) →
    Takes (decodeWords w nw) s .undefOpcode (addrOf s) s) ∧
  (∀ (s : State) (a : BitVec 1) (b c : BitVec 2) (d : BitVec 5), ∀ i ∈ [Instr.undefStoImm, .undefStoReg, .undefSto8Imm,
      .undefSto8Reg, .undefBranchA, .undefBranchB, .undefBranchC, .undefBranchD, .undefBranchE, .undefMim2, .undefMim3,
      .undefB5, .undefB6 a, .undefBC b, .undefC8 c, .undefE0 d], Takes i s .undefOpcode (addrOf s) s)

-- Shifts, bit tests, branches, immediates, flags, octets.

/-- ASL, LSL, ASR, LSR (41_shift.md R200 to R204; 30_encoding.md R129): the count is the four-bit field or the low four bits of
the count register as it was before; LSL is ASL; C tells that a bit shifted out was 1, so count 0 clears it; ASR keeps the sign
and sets V where the result is $FFFF and the input was not; ASL, LSL and LSR keep V. That the bus history, the model's own, has
no new event is in no rule (log entry 10). -/
def Obligations.ShiftsResultAndFlags : Prop := ∀ (rd : Reg) (c : Count) (s : State),
  let n : Nat := match c with
    | .imm k => k.toNat
    | .reg r => (s.reg r).toNat % 16
  let v := s.reg rd
  let flags (r : Word) (c o : Bool) : Flags := { N := r.getLsbD 15, Z := decide (r = 0), C := c, V := o }
  (∀ out : Bool, (out = true ↔ ∃ j < 16, 16 ≤ j + n ∧ v.getLsbD j = true) →
    CompletesReg (.asl rd c) s rd (v <<< n) (flags (v <<< n) out s.fl.V) ∧
    CompletesReg (.lsl rd c) s rd (v <<< n) (flags (v <<< n) out s.fl.V)) ∧
  (∀ out : Bool, (out = true ↔ ∃ j < n, v.getLsbD j = true) →
    CompletesReg (.lsr rd c) s rd (v >>> n) (flags (v >>> n) out s.fl.V) ∧
    CompletesReg (.asr rd c) s rd (v.sshiftRight n)
      (flags (v.sshiftRight n) out (decide (v ≠ 0xFFFF ∧ v.sshiftRight n = 0xFFFF))))

/-- ROL, ROR, RNL, RNR (41_shift.md R205 to R208; 30_encoding.md R129): ROL and ROR rotate the 17 bits C : Rx, RNL and RNR the
16 bits of Rx; N and Z from the result; V kept, C kept by RNL and RNR and by a rotate by 0. That the bus history, the model's
own, has no new event is in no rule (log entry 10). -/
def Obligations.RotatesResultAndFlags : Prop := ∀ (rd : Reg) (c : Count) (s : State),
  let n : Nat := match c with
    | .imm k => k.toNat
    | .reg r => (s.reg r).toNat % 16
  let v := s.reg rd
  let flags (r : Word) (c : Bool) : Flags := { N := r.getLsbD 15, Z := decide (r = 0), C := c, V := s.fl.V }
  let wide : BitVec 17 := BitVec.ofBool s.fl.C ++ v
  CompletesReg (.rnl rd c) s rd (v.rotateLeft n) (flags (v.rotateLeft n) s.fl.C) ∧
  CompletesReg (.rnr rd c) s rd (v.rotateRight n) (flags (v.rotateRight n) s.fl.C) ∧
  CompletesReg (.rol rd c) s rd ((wide.rotateLeft n).extractLsb' 0 16)
    (flags ((wide.rotateLeft n).extractLsb' 0 16) ((wide.rotateLeft n).getLsbD 16)) ∧
  CompletesReg (.ror rd c) s rd ((wide.rotateRight n).extractLsb' 0 16)
    (flags ((wide.rotateRight n).extractLsb' 0 16) ((wide.rotateRight n).getLsbD 16))

/-- BIT, BTX, BTC, BTS by their instruction words (42_bittest.md R220 to R224): the bit number B is `W[11:8]`, or the register
`W[10:8]` names modulo 16, `W[11]` being ignored, which is D49, a decision of the spec; bit B of Rx is tested into Z; BIT
changes neither Rx nor C; BTX inverts the bit and sets C to the new bit; BTC clears it and BTS sets it, with C telling that it
changed; N and V are kept. That the bus history, the model's own, has no new event is in no rule (log entry 10). -/
def Obligations.BitTestsResultAndFlags : Prop := ∀ (w nw : Word) (s : State),
  let rd : Reg := ⟨w.toNat / 8192, by have := w.isLt; omega⟩
  let ry : Reg := ⟨w.toNat / 256 % 8, by omega⟩
  let b : Nat := if w.getLsbD 12 then (s.reg ry).toNat % 16 else w.toNat / 256 % 16
  let c : Count := if w.getLsbD 12 then .reg ry else .imm (BitVec.ofNat 4 (w.toNat / 256 % 16))
  let old := (s.reg rd).getLsbD b
  let completes (i : Instr) (new c : Bool) : Prop := decodeWords w nw = i ∧
    ∀ r : Word, (∀ j < 16, r.getLsbD j = if j = b then new else (s.reg rd).getLsbD j) →
      CompletesReg i s rd r { N := s.fl.N, Z := decide (old = false), C := c, V := s.fl.V }
  (w.toNat % 256 = 0xA8 → completes (.bit rd c) old s.fl.C) ∧
  (w.toNat % 256 = 0xA9 → completes (.btx rd c) (!old) (!old)) ∧
  (w.toNat % 256 = 0xAA → completes (.btc rd c) false (decide (old ≠ false))) ∧
  (w.toNat % 256 = 0xAB → completes (.bts rd c) true (decide (old ≠ true)))

/-- The branches by their instruction words (43_branch.md R230 to R239, R450 to R452; D16, D18): where the condition holds, PC is
the address of the branch plus BRANCH_BASE (0 or 2, a parameter) plus twice the signed offset, else the next instruction;
nothing else changes. BUG is C and not Z, BSG is N and not Z. -/
def Obligations.BranchesByFlags : Prop := ∀ (w nw : Word) (s : State),
  let off : BitVec 8 := BitVec.ofNat 8 (w.toNat / 256)
  let target : Word := BitVec.ofInt 16 ((addrOf s).toNat + (if s.cfg.branchNext then 2 else 0) + 2 * off.toInt)
  ∀ p ∈ [(0x90, Instr.bcc off, !s.fl.C), (0x91, .bcs off, s.fl.C), (0x92, .bne off, !s.fl.Z), (0x93, .beq off, s.fl.Z),
      (0x94, .bpl off, !s.fl.N), (0x95, .bmi off, s.fl.N), (0x96, .bvc off, !s.fl.V), (0x97, .bvs off, s.fl.V),
      (0x98, .bug off, s.fl.C && !s.fl.Z), (0x99, .bsg off, s.fl.N && !s.fl.Z), (0x9F, .baw off, true)],
    exec p.2.1 s = .next (s.setPc (if p.2.2 then target else addrOf s + 2)) ∧
    (w.toNat % 256 = p.1 → decodeWords w nw = p.2.1)

/-- ADI and SBI by their instruction words, and INC and DEC, which are the words with the operand 1 (45_immediate.md R261,
R262, R263, R264): M is `W[12:8] + 1`; C and V as ADD and SUB have them, C of SBI set where there is no borrow. That the bus
history, the model's own, has no new event is in no rule (log entry 10). -/
def Obligations.ImmediatesResultAndFlags : Prop := ∀ (w nw : Word) (s : State),
  let rd : Reg := ⟨w.toNat / 8192, by have := w.isLt; omega⟩
  let v : BitVec 5 := BitVec.ofNat 5 (w.toNat / 256)
  let M : Nat := w.toNat / 256 % 32 + 1
  let a := s.reg rd
  let completes (i : Instr) (r : Word) (c o : Bool) : Prop :=
    CompletesReg i s rd r { N := r.getLsbD 15, Z := decide (r.toNat = 0), C := c, V := o }
  let adds (i : Instr) : Prop :=
    completes i (a + BitVec.ofNat 16 M) (decide (65536 ≤ a.toNat + M)) (decide (a.toInt + M > 32767))
  let subs (i : Instr) : Prop :=
    completes i (a - BitVec.ofNat 16 M) (decide (M ≤ a.toNat)) (decide (a.toInt - M < -32768))
  (adds (.adi rd v) ∧ subs (.sbi rd v)) ∧ (M = 1 → adds (.inc rd) ∧ subs (.dec rd)) ∧
  (w.toNat % 256 = 0xB8 → decodeWords w nw = if M = 1 then .inc rd else .adi rd v) ∧
  (w.toNat % 256 = 0xB9 → decodeWords w nw = if M = 1 then .dec rd else .sbi rd v)

/-- SEF and CLF by their instruction words (49_processor.md R320, R321): the flags `W[15:12]` names (N, Z, C, V) are set, or
cleared, the others kept; nothing else changes but PC. -/
def Obligations.SefClfChangeNamedFlags : Prop := ∀ (w nw : Word) (s : State),
  let mask : BitVec 4 := BitVec.ofNat 4 (w.toNat / 4096)
  (w.toNat % 256 = 0xAE → decodeWords w nw = .sef mask ∧ exec (.sef mask) s = .next ((s.setFl
    { N := s.fl.N || w.getLsbD 15, Z := s.fl.Z || w.getLsbD 14, C := s.fl.C || w.getLsbD 13,
      V := s.fl.V || w.getLsbD 12 }).setPc (addrOf s + 2))) ∧
  (w.toNat % 256 = 0xAF → decodeWords w nw = .clf mask ∧ exec (.clf mask) s = .next ((s.setFl
    { N := s.fl.N && !w.getLsbD 15, Z := s.fl.Z && !w.getLsbD 14, C := s.fl.C && !w.getLsbD 13,
      V := s.fl.V && !w.getLsbD 12 }).setPc (addrOf s + 2)))

/-- SWO (49_processor.md R346; D40): an octet of Rs goes to an octet of Rd; LR and HR clear the other octet of Rd, LW and HW
keep it; both registers are read before the write; no flag changes. That the bus history, the model's own, has no new event is
in no rule (log entry 10). -/
def Obligations.SwoMovesOctets : Prop := ∀ (rd rs : Reg) (s : State),
  let x := (s.reg rs).toNat
  let d := (s.reg rd).toNat
  CompletesReg (.swo rd rs .lr) s rd (BitVec.ofNat 16 (x % 256)) s.fl ∧
  CompletesReg (.swo rd rs .hr) s rd (BitVec.ofNat 16 (x / 256)) s.fl ∧
  CompletesReg (.swo rd rs .lw) s rd (BitVec.ofNat 16 (d / 256 * 256 + x % 256)) s.fl ∧
  CompletesReg (.swo rd rs .hw) s rd (BitVec.ofNat 16 (x % 256 * 256 + d % 256)) s.fl

-- Floating point.

/-- FPA, FPS, FPM, FPD with a result (44_fpu.md R241, R244 to R248; D29): the two operands are read at Rx and Ry, low word first;
the result is pushed on the current stack, SP going down by 4 with the low word on top; N is its sign, Z tells the pattern
$00000000, C and V are kept; Rx, Ry and everything else are unchanged. -/
def Obligations.FpuResultIsPushed : Prop := ∀ (rx ry : Reg) (s t1 t2 t3 t4 : State) (x0 x1 y0 y1 : Word),
  readWord .read (s.reg rx) s = .ok x0 t1 → readWord .read (s.reg rx + 2) t1 = .ok x1 t2 →
  readWord .read (s.reg ry) t2 = .ok y0 t3 → readWord .read (s.reg ry + 2) t3 = .ok y1 t4 → CanPush 2 s →
  ∀ p ∈ [(FpOp.add, Instr.fpa rx ry), (.sub, .fps rx ry), (.mul, .fpm rx ry), (.div, .fpd rx ry)],
  ∀ f : BitVec 32, fpArith s.cfg.fp p.1 (x1 ++ x0) (y1 ++ y0) = .ok f →
    ∃ u, exec p.2 s = .next u ∧ u.sp = s.sp - 4 ∧
      u.fl = { N := f.getLsbD 31, Z := decide (f = 0), C := s.fl.C, V := s.fl.V } ∧ u.pc = addrOf s + 2 ∧
      (s.ps.S = true → u.usp = s.usp) ∧ (s.ps.S = false → u.ssp = s.ssp) ∧
      StoredWord s (s.sp - 4) (f.extractLsb' 0 16) u ∧
      (∀ k, ¬ WritesByte s (s.sp - 4) k → ¬ WritesByte s (s.sp - 3) k →
        (WritesByte s (s.sp - 2) k → u.ramByte k = f.extractLsb' 16 8) ∧
        (WritesByte s (s.sp - 1) k → u.ramByte k = f.extractLsb' 24 8)) ∧
      UnchangedBut (fun _ => True) s (s.sp - 4) 4 u

/-- An FPU error (44_fpu.md R244, R249, 60_exceptions.md R364, R371; D31): N, Z and V are cleared and C tells a zero divisor,
then FPUError is taken with the address of the instruction as return address; nothing is pushed before. -/
def Obligations.FpuErrorIsTaken : Prop := ∀ (rx ry : Reg) (s t1 t2 t3 t4 : State) (x0 x1 y0 y1 : Word),
  readWord .read (s.reg rx) s = .ok x0 t1 → readWord .read (s.reg rx + 2) t1 = .ok x1 t2 →
  readWord .read (s.reg ry) t2 = .ok y0 t3 → readWord .read (s.reg ry + 2) t3 = .ok y1 t4 →
  ∀ p ∈ [(FpOp.add, Instr.fpa rx ry), (.sub, .fps rx ry), (.mul, .fpm rx ry), (.div, .fpd rx ry)],
  ∀ dz : Bool, fpArith s.cfg.fp p.1 (x1 ++ x0) (y1 ++ y0) = .err dz →
    Takes p.2 s .fpuError (addrOf s) (t4.setFl { N := false, Z := false, C := dz, V := false }) ∧
    t4.pc = s.pc ∧ t4.fl = s.fl ∧ Unchanged (fun _ => True) s t4

/-- The constraints C-a to C-e on the floating-point arithmetic, for both instances of the parameter (44_fpu.md R243; D30; log
entry 20 says how "finite" in C-e is read). -/
def Obligations.FpuConstraintsHold : Prop := ∀ (inst : FpInstance) (op : FpOp) (x y : BitVec 32),
  let field (z : BitVec 32) : Nat := z.toNat / 2 ^ 23 % 256
  (field y = 0 → fpArith inst .div x y = .err true) ∧
  (field x = 0 → fpArith inst op x y = fpArith inst op 0 y) ∧
  (field y = 0 → fpArith inst op x y = fpArith inst op x 0) ∧
  (∀ f, fpArith inst op x y = .ok f → field f = 0 → f = 0) ∧
  (fpArith inst op x y = .err true → op = .div ∧ field y = 0) ∧
  fpArith inst .add 0 0 = .ok 0 ∧ fpArith inst .sub 0 0 = .ok 0 ∧
  (field y ≠ 255 → fpArith inst .mul 0 y = .ok 0) ∧ (field x ≠ 255 → fpArith inst .mul x 0 = .ok 0)

-- Interrupt instructions, jumps and calls.

/-- SWI (46_interrupt_instr.md R272, 60_exceptions.md R371; D20): where PS.I is set, or the parameter SWI_GATED_BY_I is false, the
software interrupt is taken in either mode, with the next instruction as return address; else only PC advances. -/
def Obligations.SwiTakenWhenEnabled : Prop := ∀ s : State,
  (s.ps.I = true ∨ s.cfg.swiGated = false → Takes .swi s .swi (addrOf s + 2) s) ∧
  (s.ps.I = false → s.cfg.swiGated = true → exec .swi s = .next (s.setPc (addrOf s + 2)))

/-- RTI in Supervisor mode (46_interrupt_instr.md R271, 60_exceptions.md R376, 20_memory.md R79): PC is popped, then PS with Q,
U, W and E cleared; SSP rises by 4 and USP is kept whatever mode the popped PS selects; the bank map is reloaded where M
changes; FL, the registers, the MMU cache and everything else are kept. -/
def Obligations.RtiPopsPcAndPs : Prop := ∀ (s t : State) (p q : Word), s.ps.S = true → popWords 2 s = .ok [p, q] t →
  ∃ u, exec .rti s = .next u ∧ u.pc = p ∧
    u.ps = { S := q.getLsbD 15, M := q.getLsbD 14, I := q.getLsbD 13, R := q.getLsbD 12,
             Q := false, U := false, W := false, E := false } ∧
    MapFollowsM s u ∧ u.ssp = s.ssp + 4 ∧ u.usp = s.usp ∧ u.fl = s.fl ∧ (∀ r, u.reg r = s.reg r) ∧ SameMmu s u ∧ SameRest s u

/-- JMP (47_jump_call.md R280, R281): PC is the operand; nothing else changes but the operand's base register. -/
def Obligations.JmpSetsPc : Prop := ∀ (m : Operand) (s t : State) (v : Word), readOperand m s = .ok v t →
  ∃ u, exec (.jmp m) s = .next u ∧ u.pc = v ∧ u.fl = s.fl ∧ (∀ k, m.base = some k → u.reg k = m.baseAfter 2 s k) ∧
    Unchanged (fun k => m.base ≠ some k) s u

/-- JSR (47_jump_call.md R282; D15): the operand is read, then the address after the instruction is pushed on the current stack
and PC is the operand. Where the push faults, only the base register of the operand has changed (60_exceptions.md R372). -/
def Obligations.JsrPushesAndJumps : Prop := ∀ (m : Operand) (s t : State) (v : Word), readOperand m s = .ok v t →
  (CanPush 1 s → ∃ u, exec (.jsr m) s = .next u ∧ u.pc = v ∧ u.fl = s.fl ∧ u.sp = s.sp - 2 ∧
    (s.ps.S = true → u.usp = s.usp) ∧ (s.ps.S = false → u.ssp = s.ssp) ∧
    StoredWord s (s.sp - 2) (addrOf s + m.len) u ∧ (∀ k, m.base = some k → u.reg k = m.baseAfter 2 s k) ∧
    UnchangedBut (fun k => m.base ≠ some k) s (s.sp - 2) 2 u) ∧
  (∀ c, translatePair s (s.sp - 2) .write = .error c → Takes (.jsr m) s c (addrOf s) t ∧ t.fl = s.fl ∧
    (∀ k, m.base = some k → t.reg k = m.baseAfter 2 s k) ∧ Unchanged (fun k => m.base ≠ some k) s t)

/-- JMU in Supervisor mode (47_jump_call.md R280, R284): the operand is read in Supervisor mode, then PS.S is cleared and PC is the
operand; no other bit of PS changes and nothing is pushed. -/
def Obligations.JmuEntersUserMode : Prop := ∀ (m : Operand) (s t : State) (v : Word), s.ps.S = true → readOperand m s = .ok v t →
  ∃ u, exec (.jmu m) s = .next u ∧ u.pc = v ∧ u.ps = { s.ps with S := false } ∧ u.fl = s.fl ∧
    (∀ k, m.base = some k → u.reg k = m.baseAfter 2 s k) ∧ (∀ k, m.base ≠ some k → u.reg k = s.reg k) ∧
    (∀ k, u.bank k = s.bank k) ∧ SameStacks s u ∧ SameMmu s u ∧ SameRest s u

/-- JCX in Supervisor mode (47_jump_call.md R286; D32): a pointer is popped, the MMU cache is loaded from it, then R7 to R0, FL,
PC and PS are popped from the same stack, PC before PS; PS is loaded whole and the bank map is reloaded where M changes; SSP
rises by 24. With the MMU off it always completes, and MMU word i is the word at the pointer plus 2i. -/
def Obligations.JcxRestoresContext : Prop :=
  (∀ (s t1 t2 t3 : State) (a : Word) (ws : List Word), s.ps.S = true → pop s = .ok a t1 → loadMmu a t1 = .ok () t2 →
    popWords 11 t2 = .ok ws t3 →
    ∃ u, exec .jcx s = .next u ∧ (∀ r : Reg, ws[7 - r.val]? = some (u.reg r)) ∧
      (∀ f, ws[8]? = some f → u.fl = { N := f.getLsbD 15, Z := f.getLsbD 14, C := f.getLsbD 13, V := f.getLsbD 12 }) ∧
      ws[9]? = some u.pc ∧
      (∀ q, ws[10]? = some q → u.ps = { S := q.getLsbD 15, M := q.getLsbD 14, I := q.getLsbD 13, R := q.getLsbD 12,
                                        Q := q.getLsbD 11, U := q.getLsbD 10, W := q.getLsbD 9, E := q.getLsbD 8 }) ∧
      MapFollowsM s u ∧ u.ssp = s.ssp + 24 ∧ u.usp = s.usp ∧ SameMmu t2 u ∧ SameRest s u) ∧
  (∀ s : State, s.ps.S = true → s.ps.M = false → ∃ a t1 t2 ws t3, pop s = .ok a t1 ∧ loadMmu a t1 = .ok () t2 ∧
    popWords 11 t2 = .ok ws t3 ∧
    ∀ (i : Fin 32) (v : Word), HoldsWord s (a + BitVec.ofNat 16 (2 * i.val)) v → t2.mmuWord i = v)

-- PSH, POP, RTS.

/-- PSH of general registers (48_stack.md R301, R302, R306): the registers of the list are pushed, R0 first; nothing else changes.
Where a push faults the interrupt is taken from the state after the pushes before it (48_stack.md R308). -/
def Obligations.PshGeneralPushesList : Prop := ∀ (list : BitVec 8) (s : State),
  let ws := ([0, 1, 2, 3, 4, 5, 6, 7].filter fun r : Reg => list.getLsbD r.val).map s.reg
  let n := ws.length
  (CanPush n s → ∃ t, pushWords ws s = .ok () t ∧ exec (.pshGeneral list) s = .next (t.setPc (addrOf s + 2)) ∧
    t.sp = s.sp - BitVec.ofNat 16 (2 * n) ∧ t.fl = s.fl ∧
    UnchangedBut (fun _ => True) s (s.sp - BitVec.ofNat 16 (2 * n)) (2 * n) t) ∧
  (∀ c t, pushWords ws s = .raise c t → Takes (.pshGeneral list) s c (addrOf s) t)

/-- POP of general registers (48_stack.md R301, R304, R306): the registers of the list are popped, R7 first; the others and
everything else are kept. -/
def Obligations.PopGeneralPopsList : Prop := ∀ (list : BitVec 8) (s t : State) (ws : List Word),
  let popped (from_ : Nat) : Nat := ((List.range 8).filter fun j => decide (from_ ≤ j) && list.getLsbD j).length
  popWords (popped 0) s = .ok ws t →
  ∃ u, exec (.popGeneral list) s = .next u ∧ u.pc = addrOf s + 2 ∧ u.fl = s.fl ∧
    u.sp = s.sp + BitVec.ofNat 16 (2 * popped 0) ∧ (s.ps.S = true → u.usp = s.usp) ∧ (s.ps.S = false → u.ssp = s.ssp) ∧
    (∀ r : Reg, list.getLsbD r.val = true → ws[popped (r.val + 1)]? = some (u.reg r)) ∧
    (∀ r : Reg, list.getLsbD r.val = false → u.reg r = s.reg r) ∧ SameStatus s u ∧ SameMmu s u ∧ SameMemory s u

/-- PSH of special registers, with PS in Supervisor mode only (48_stack.md R301, R303, R306; 10_state.md R43): SP and USP as they
were before the instruction, PS, the address of the next instruction and FL are pushed in this order; the undefined low bits
of a pushed PS and FL are some values `pl` and `f`, those of PS zero while PS has not been written since Reset. -/
def Obligations.PshSpecialPushesList : Prop := ∀ (list : BitVec 5) (s : State), (list.getLsbD 2 = true → s.ps.S = true) →
  let words (pl : Byte) (f : BitVec 12) : List Word :=
    (if list.getLsbD 0 then [s.sp] else []) ++ (if list.getLsbD 1 then [s.usp] else []) ++
    (if list.getLsbD 2 then [statusByte s.ps ++ pl] else []) ++ (if list.getLsbD 3 then [addrOf s + 2] else []) ++
    (if list.getLsbD 4 then [BitVec.ofBool s.fl.N ++ BitVec.ofBool s.fl.Z ++ BitVec.ofBool s.fl.C ++
      BitVec.ofBool s.fl.V ++ f] else [])
  let n := (words 0 0).length
  CanPush n s → ∃ pl f t u, (s.psClean = true → pl = 0) ∧ pushWords (words pl f) s = .ok () t ∧
    exec (.pshSpecial list) s = .next u ∧ u = { t with pc := addrOf s + 2, free := u.free } ∧
    u.sp = s.sp - BitVec.ofNat 16 (2 * n) ∧ u.fl = s.fl ∧
    UnchangedBut (fun _ => True) s (s.sp - BitVec.ofNat 16 (2 * n)) (2 * n) u

/-- POP of special registers, with PS in Supervisor mode only, and RTS, the POP of PC alone (48_stack.md R301, R305, R306,
47_jump_call.md R283; D33): FL, PC, PS, USP and SP are popped in this order, each with the stack pointer PS.S selects at that
moment; PS is stored whole, the bank map is reloaded where M changes; a popped SP is the final SP; what is not in the list and
everything else is kept. -/
def Obligations.PopSpecialPopsList : Prop :=
  (∀ (list : BitVec 5) (s t : State) (f c q us v : Word), (list.getLsbD 2 = true → s.ps.S = true) →
    PopsSpecial list s f c q us v t →
    ∃ u, exec (.popSpecial list) s = .next u ∧
      u.fl = (if list.getLsbD 4 then { N := f.getLsbD 15, Z := f.getLsbD 14, C := f.getLsbD 13, V := f.getLsbD 12 }
        else s.fl) ∧
      u.pc = (if list.getLsbD 3 then c else addrOf s + 2) ∧
      u.ps = (if list.getLsbD 2 then
        { S := q.getLsbD 15, M := q.getLsbD 14, I := q.getLsbD 13, R := q.getLsbD 12,
          Q := q.getLsbD 11, U := q.getLsbD 10, W := q.getLsbD 9, E := q.getLsbD 8 } else s.ps) ∧
      MapFollowsM s u ∧ u.usp = t.usp ∧ u.ssp = t.ssp ∧ (list.getLsbD 0 = true → u.sp = v) ∧
      (list.getLsbD 1 = true → u.ps.S = true → u.usp = us) ∧
      (∀ r, u.reg r = s.reg r) ∧ SameMmu s u ∧ SameRest s u) ∧
  (∀ (s t : State) (v : Word), pop s = .ok v t → ∃ u, exec .rts s = .next u ∧ exec (.popSpecial 0b01000) s = .next u ∧
    u.pc = v ∧ u.sp = s.sp + 2 ∧ (s.ps.S = true → u.usp = s.usp) ∧ (s.ps.S = false → u.ssp = s.ssp) ∧ u.fl = s.fl ∧
    (∀ r, u.reg r = s.reg r) ∧ SameStatus s u ∧ SameMmu s u ∧ SameMemory s u)

/-- PSH and POP with PS in the list in User mode (48_stack.md R309, 60_exceptions.md R367, R371; D43, D44): every other register
of the list is pushed or popped as if PS were not in it, then UnprivOpcode is taken with the address of the instruction as
return address; a popped PC is lost. -/
def Obligations.PsInUserModeTrapsLast : Prop := ∀ (list : BitVec 5) (s : State), s.ps.S = false → list.getLsbD 2 = true →
  (CanPush ((list &&& 0b11011).cpop.toNat) s → ∃ u, exec (.pshSpecial (list &&& 0b11011)) s = .next (u.setPc (addrOf s + 2)) ∧
    u.pc = s.pc ∧ Takes (.pshSpecial list) s .unprivOpcode (addrOf s) u) ∧
  (∀ f c q us v t, PopsSpecial list s f c q us v t →
    ∃ u p, exec (.popSpecial (list &&& 0b11011)) s = .next (u.setPc p) ∧ u.pc = s.pc ∧ u.ps = s.ps ∧
      Takes (.popSpecial list) s .unprivOpcode (addrOf s) u)

-- The Hardware Bus, the clock, the bank map, the MMU cache, the special registers, SLP.

/-- HWQ $00, $01 and $02 in Supervisor mode (49_processor.md R325 to R328; D38, D52): each completes; $00 leaves a count of at
most 256 in R0, $01 and $02 write R0 to R3, and $02 may change internal RAM; no other register, flag, special register or
memory changes. The answers are the bus's. That each query is recorded in the history field `bus` is in no rule: the history is
the model's own, its form of the oracle of D38 (log entry 10, DESIGN CHOICE). -/
def Obligations.HwqBusAnswers : Prop := ∀ s : State, s.ps.S = true →
  (∃ u, exec .hwqCount s = .next u ∧ (u.reg 0).toNat ≤ 256 ∧ u.bus = .count :: s.bus ∧ u.fl = s.fl ∧ u.pc = addrOf s + 2 ∧
    Unchanged (fun r => r ≠ 0) s u) ∧
  (∃ u, exec .hwqQuery s = .next u ∧ u.bus = .query (s.reg 0) :: s.bus ∧ u.fl = s.fl ∧ u.pc = addrOf s + 2 ∧
    Unchanged (fun r => 4 ≤ r.val) s u) ∧
  (∃ u, exec .hwqMessage s = .next u ∧ u.bus = .message (s.reg 0) (s.reg 1) (s.reg 2) (s.reg 3) :: s.bus ∧ u.fl = s.fl ∧
    u.pc = addrOf s + 2 ∧ (∀ r : Reg, 4 ≤ r.val → u.reg r = s.reg r) ∧ SameStatus s u ∧ SameStacks s u ∧ SameMmu s u ∧
    (∀ a, u.romByte a = s.romByte a) ∧ (∀ a, s.cfg.nram * 4096 ≤ a → u.ramByte a = s.ramByte a))

/-- HWQ $03 and $04 in Supervisor mode (49_processor.md R329, R330, 60_exceptions.md R391, R392; D37): $03 sets the tick from R0,
$FFFF disabling it and every other value giving 2^min(R0, 10) per second, and changes nothing else; $04 writes the seven
fields of one clock reading, each in its range, into R0 to R3, and changes nothing else but the clock's next reading. -/
def Obligations.HwqClockTickAndTime : Prop := ∀ s : State, s.ps.S = true →
  (∃ t, exec .hwqSetTick s = .next { s with tick := t, pc := addrOf s + 2 } ∧ (s.reg 0 = 0xFFFF → t = .disabled) ∧
    (s.reg 0 ≠ 0xFFFF → ∃ e, t = .rate e ∧ e.val = min (s.reg 0).toNat 10)) ∧
  (∃ u, exec .hwqGetTime s = .next u ∧
    (u.reg 0).toNat / 256 = s.rtcTime.year.val ∧ (u.reg 0).toNat % 16 = s.rtcTime.month.val ∧ (u.reg 0).toNat % 16 ≤ 11 ∧
    (u.reg 1).toNat / 256 % 32 = s.rtcTime.day.val ∧
    (u.reg 1).toNat % 32 = s.rtcTime.hour.val ∧ (u.reg 1).toNat % 32 ≤ 23 ∧
    (u.reg 2).toNat / 256 % 64 = s.rtcTime.minute.val ∧ (u.reg 2).toNat / 256 % 64 ≤ 59 ∧
    (u.reg 2).toNat % 64 = s.rtcTime.second.val ∧ (u.reg 2).toNat % 64 ≤ 59 ∧
    (u.reg 3).toNat % 4096 = s.rtcTime.milli.val ∧ (u.reg 3).toNat % 4096 ≤ 1000 ∧
    u.fl = s.fl ∧ u.pc = addrOf s + 2 ∧ Unchanged (fun r => 4 ≤ r.val) s { u with rtcTime := s.rtcTime })

/-- HWQ $05 to $FF (49_processor.md R323, 93_implementation_defined.md U8; D36): in Supervisor mode the step has no successor state;
in User mode UnprivOpcode is taken. -/
def Obligations.HwqRestRefused : Prop := ∀ (op : BitVec 8) (s : State), 5 ≤ op.toNat →
  (∀ nw, decodeWords (op ++ 0xC4#8) nw = .hwq op) ∧
  (s.ps.S = true → exec (.hwq op) s = .refused (.hwqOperation op)) ∧
  (s.ps.S = false → Takes (.hwq op) s .unprivOpcode (addrOf s) s)

/-- MIM and MIA, in either mode (49_processor.md R331, R332; D27, D45, D51): with the MMU off MIM sets entry `Rv and $F` of the bank
map from Ra, MIA all sixteen entries from the sixteen words at Ra, all read before any entry changes; a bank word selects ROM by
its bit 15 and a bank by the rest modulo the number of banks, so that it is a bank the chip has. With the MMU on only PC
changes. -/
def Obligations.MimMiaSetBankMap : Prop := ∀ (rv ra : Reg) (s : State),
  let bankOfWord (w : Word) : BankRef :=
    if w.getLsbD 15 then ⟨.rom, w.toNat % 32768 % s.cfg.nrom⟩ else ⟨.ram, w.toNat % 32768 % s.cfg.nram⟩
  (s.ps.M = false → ∃ m, exec (.mim rv ra) s = .next { s with im := m, pc := addrOf s + 2 } ∧
    ∀ k : Fin 16, m.get k = if k.val = (s.reg rv).toNat % 16 then bankOfWord (s.reg ra) else s.bank k) ∧
  (s.ps.M = false → ∃ m u, exec (.mia ra) s = .next u ∧
    u = { s with im := m, pc := addrOf s + 2, bus := u.bus, free := u.free } ∧
    (∀ (k : Fin 16) (w : Word), HoldsWord s (s.reg ra + BitVec.ofNat 16 (2 * k.val)) w → m.get k = bankOfWord w) ∧
    ∀ k, BankExists s.cfg (m.get k)) ∧
  (s.ps.M = true → exec (.mim rv ra) s = .next (s.setPc (addrOf s + 2)) ∧
    exec (.mia ra) s = .next (s.setPc (addrOf s + 2))) ∧
  (∀ w, BankExists s.cfg (bankOfWord w))

/-- MMR and MMW in Supervisor mode (49_processor.md R335, R336; D26): the word of the MMU cache that the low five bits of Ra
select is read into Rv, or written whole from Rv, whether PS.M is set or not; nothing else changes. That the bus history, the
model's own, has no new event is in no rule (log entry 10). -/
def Obligations.MmrMmwReadWriteCache : Prop := ∀ (rv ra : Reg) (s : State) (k : Fin 32), s.ps.S = true →
  k.val = (s.reg ra).toNat % 32 →
  CompletesReg (.mmr rv ra) s rv (s.mmuWord k) s.fl ∧
  ∃ m, exec (.mmw rv ra) s = .next { s with mmu := m, pc := addrOf s + 2 } ∧
    ∀ j, m.get j = if j = k then s.reg rv else s.mmuWord j

/-- MML in Supervisor mode (49_processor.md R337; D51): the operand is the address of the array; the 32 words of the MMU cache are
stored there in rising order, low byte first, each as it is when its turn comes; nothing else changes but A bits and the
operand's base register. With the MMU off it always completes; where a store faults the words before it stay. -/
def Obligations.MmlStoresMmuWords : Prop := ∀ (m : Operand) (s t : State) (a : Word), s.ps.S = true → readOperand m s = .ok a t →
  (∀ u, storeMmu a t = .ok () u → ∃ v, exec (.mml m) s = .next v ∧ v = { u with pc := addrOf s + m.len } ∧ v.fl = s.fl ∧
    SameStacks s v ∧ (∀ k, m.base = some k → v.reg k = m.baseAfter 2 s k) ∧
    UnchangedBut (fun k => m.base ≠ some k) s a 64 v ∧
    ∀ (i : Fin 32) (k : Nat), s.ps.M = false →
      (∀ j < 64, 2 * i.val + 1 < j → ¬ WritesByte s (a + BitVec.ofNat 16 j) k) →
      (WritesByte s (a + BitVec.ofNat 16 (2 * i.val)) k → v.ramByte k = (s.mmuWord i).extractLsb' 0 8) ∧
      (WritesByte s (a + BitVec.ofNat 16 (2 * i.val + 1)) k → v.ramByte k = (s.mmuWord i).extractLsb' 8 8)) ∧
  (s.ps.M = false → ∃ u, storeMmu a t = .ok () u) ∧
  (∀ c u, storeMmu a t = .raise c u → Takes (.mml m) s c (addrOf s) u)

/-- MMS in Supervisor mode (49_processor.md R338; D51): the operand is the address of the array; the 32 words there are loaded into
the MMU cache in rising order, each effective at once; nothing else changes but the operand's base register. With the MMU off it
always completes and MMU word i is the word at the address plus 2i; where a read faults the words before it stay. -/
def Obligations.MmsLoadsMmuWords : Prop := ∀ (m : Operand) (s t : State) (a : Word), s.ps.S = true → readOperand m s = .ok a t →
  (∀ u, loadMmu a t = .ok () u → ∃ v, exec (.mms m) s = .next v ∧ v = { u with pc := addrOf s + m.len } ∧ v.fl = s.fl ∧
    SameStatus s v ∧ SameStacks s v ∧ SameMemory s v ∧ (∀ k, m.base = some k → v.reg k = m.baseAfter 2 s k) ∧
    (∀ k, m.base ≠ some k → v.reg k = s.reg k) ∧
    (s.ps.M = false → ∀ (i : Fin 32) (w : Word), HoldsWord s (a + BitVec.ofNat 16 (2 * i.val)) w → v.mmuWord i = w)) ∧
  (s.ps.M = false → ∃ u, loadMmu a t = .ok () u) ∧
  (∀ c u, loadMmu a t = .raise c u → Takes (.mms m) s c (addrOf s) u)

/-- TSR (49_processor.md R340, R342, 10_state.md R41, R43; D17, D34): PC reads as the address of the next instruction, SP as
the current stack pointer, PS with its low byte zero while it has not been written since Reset and else some value; IA, II, P2,
USP and SSP need Supervisor mode, as do the indices from $08 up, which then change nothing but PC; else UnprivOpcode is taken.
That the bus history, the model's own, has no new event is in no rule (log entry 10). -/
def Obligations.TsrReadsSpecial : Prop := ∀ (rd : Reg) (sr : BitVec 5) (s : State),
  let reads (v : Word) : Prop := CompletesReg (.tsr rd sr) s rd v s.fl
  (sr.toNat = 0 → reads (addrOf s + 2)) ∧
  (sr.toNat = 1 → reads (if s.ps.S then s.ssp else s.usp)) ∧
  (sr.toNat = 4 → ∃ b : Byte, (s.psClean = true → b = 0) ∧ reads (statusByte s.ps ++ b)) ∧
  (s.ps.S = true → (sr.toNat = 2 → reads s.ia) ∧ (sr.toNat = 3 → reads s.ii) ∧ (sr.toNat = 5 → reads s.p2) ∧
    (sr.toNat = 6 → reads s.usp) ∧ (sr.toNat = 7 → reads s.ssp) ∧
    (8 ≤ sr.toNat → exec (.tsr rd sr) s = .next (s.setPc (addrOf s + 2)))) ∧
  (s.ps.S = false → sr.toNat ≠ 0 → sr.toNat ≠ 1 → sr.toNat ≠ 4 → Takes (.tsr rd sr) s .unprivOpcode (addrOf s) s)

/-- TRS (49_processor.md R341, R342, 10_state.md R41, R43, 20_memory.md R79; D17, D46): a write of PC is a jump; SP is the current
stack pointer; PS takes its defined bits, and the bank map is reloaded where M changes; all but PC and SP need Supervisor mode,
as do the indices from $08 up, which then change nothing but PC; else UnprivOpcode is taken. -/
def Obligations.TrsWritesSpecial : Prop := ∀ (rs : Reg) (sr : BitVec 5) (s : State),
  let v := s.reg rs
  let writes (t : State) : Prop := exec (.trs rs sr) s = .next { t with pc := addrOf s + 2 }
  (sr.toNat = 0 → exec (.trs rs sr) s = .next { s with pc := v }) ∧
  (sr.toNat = 1 → s.ps.S = true → writes { s with ssp := v }) ∧ (sr.toNat = 1 → s.ps.S = false → writes { s with usp := v }) ∧
  (s.ps.S = true → (sr.toNat = 2 → writes { s with ia := v }) ∧ (sr.toNat = 3 → writes { s with ii := v }) ∧
    (sr.toNat = 5 → writes { s with p2 := v }) ∧ (sr.toNat = 6 → writes { s with usp := v }) ∧
    (sr.toNat = 7 → writes { s with ssp := v }) ∧ (8 ≤ sr.toNat → writes s) ∧
    (sr.toNat = 4 → ∃ u, exec (.trs rs sr) s = .next u ∧ u.pc = addrOf s + 2 ∧
      u.ps = { S := v.getLsbD 15, M := v.getLsbD 14, I := v.getLsbD 13, R := v.getLsbD 12,
               Q := v.getLsbD 11, U := v.getLsbD 10, W := v.getLsbD 9, E := v.getLsbD 8 } ∧
      MapFollowsM s u ∧ u.fl = s.fl ∧ (∀ r, u.reg r = s.reg r) ∧ SameStacks s u ∧ SameMmu s u ∧ SameRest s u)) ∧
  (s.ps.S = false → sr.toNat ≠ 0 → sr.toNat ≠ 1 → Takes (.trs rs sr) s .unprivOpcode (addrOf s) s)

/-- SLP in Supervisor mode, and the halted processor (49_processor.md R345, 00_scope.md R11, 60_exceptions.md R388; D35): SLP halts,
with PC at the next instruction; a halted processor at a boundary where nothing is signalled changes nothing; an interrupt or a
Reset leaves the halted state. -/
def Obligations.SlpHalts : Prop := ∀ s : State,
  (s.ps.S = true → exec .slp s = .next { s with halted := true, pc := addrOf s + 2 }) ∧
  (s.halted = true → s.inputs = [] → step s = .next s) ∧
  (∀ c ret, (takeInterrupt c ret s).halted = false) ∧ (performReset s).halted = false

-- Interrupts, Reset, the step.

/-- Every privileged instruction in User mode (60_exceptions.md R367, R389, 49_processor.md R322; D23): UnprivOpcode is taken with
the address of the instruction as return address and nothing else done; in a step its next word is not fetched. -/
def Obligations.PrivilegedTrapsInUserMode : Prop := ∀ s : State, s.ps.S = false →
  (∀ (m : Operand) (rv ra : Reg), ∀ i ∈ [Instr.jmu m, .jcx, .hwqCount, .hwqQuery, .hwqMessage, .hwqSetTick, .hwqGetTime, .slp,
      .rti, .mmr rv ra, .mmw rv ra, .mml m, .mms m], Takes i s .unprivOpcode (addrOf s) s) ∧
  (∀ w t, s.inputs = [] → s.halted = false → readWord .exec (addrOf s) s = .ok w t →
    w.toNat % 256 ∈ [0xC2, 0xCE, 0xCF] → step s = .next (takeInterrupt .unprivOpcode (addrOf s) t))

/-- A fault in an operand (60_exceptions.md R365, R372, 40_alu.md R182, 47_jump_call.md R280; D24): the instruction takes the bank
fault with its own address as return address, and nothing has changed, so that it can be run again. -/
def Obligations.OperandFaultsChangeNothing : Prop := ∀ (rd : Reg) (m : Operand) (s : State),
  (∀ c t, readOperand m s = .raise c t → t = s ∧ (∃ a u w e, c = .bankFault a u w e) ∧
    (∀ i ∈ [Instr.lod rd m, .add rd m, .sub rd m, .adc rd m, .sbc rd m, .mul rd m, .div rd m, .mli rd m, .dvi rd m, .mod rd m,
      .mdi rd m, .and rd m, .orr rd m, .eor rd m, .not rd m, .cmp rd m, .neg rd m, .jmp m, .jsr m],
      Takes i s c (addrOf s) s) ∧
    (s.ps.S = true → ∀ i ∈ [Instr.jmu m, .mml m, .mms m], Takes i s c (addrOf s) s)) ∧
  (∀ c t, readOperand8 m s = .raise c t → Takes (.lod8 rd m) s c (addrOf s) s) ∧
  (∀ a c, m.HasAddress 2 s a → translatePair s a .write = .error c → Takes (.sto rd m) s c (addrOf s) s) ∧
  (∀ a c, m.HasAddress 1 s a → translate s a .write = .error c → Takes (.sto8 rd m) s c (addrOf s) s)

/-- The interrupt sequence, whole (60_exceptions.md R362, R370, R371, R373, R374, R375; 20_memory.md R79; D25, D48): PS gets S set, M
clear, Q set for a hardware interrupt and U, W, E for a bank fault, whose address goes to P2; entry 0 of the bank map follows
PS.R and the others go back to their defaults where M was set; under the new map the old PS and then the return address are
pushed on the supervisor stack, and PC is the word at IA plus twice the index; the halted state ends; nothing else changes. -/
def Obligations.InterruptEntryWhole : Prop := ∀ (c : Cause) (ret : Word) (s t : State), t = takeInterrupt c ret s →
  let index : Nat := match c with
    | .clock => 1
    | .divideByZero => 2
    | .fpuError => 3
    | .bankFault _ _ _ _ => 5
    | .unprivOpcode => 6
    | .undefOpcode => 7
    | .hwi => 0xC
    | .busRefresh => 0xD
    | .debugQuery => 0xE
    | .swi => 0xF
  t.ps = (match c with
    | .hwi => { s.ps with S := true, M := false, Q := true }
    | .bankFault _ u w e => { s.ps with S := true, M := false, U := u, W := w, E := e }
    | _ => { s.ps with S := true, M := false }) ∧
  t.p2 = (match c with
    | .bankFault a _ _ _ => a
    | _ => s.p2) ∧
  (∀ k, t.bank k = if k.val = 0 then ⟨if s.ps.R then .ram else .rom, 0⟩ else if s.ps.M then ⟨.ram, k.val⟩ else s.bank k) ∧
  t.ssp = s.ssp - 4 ∧ t.usp = s.usp ∧ t.halted = false ∧ t.ia = s.ia ∧ t.ii = s.ii ∧ t.fl = s.fl ∧
  (∀ r, t.reg r = s.reg r) ∧ (∀ k, t.mmuWord k = s.mmuWord k) ∧ t.tick = s.tick ∧ t.rtcTime = s.rtcTime ∧
  t.inputs = s.inputs ∧ t.cfg = s.cfg ∧ t.ramEpoch = s.ramEpoch ∧
  (∃ low : Byte, (s.psClean = true → low = 0) ∧
    StoredWord t (s.ssp - 4) ret t ∧
    (∀ k, ¬ WritesByte t (s.ssp - 4) k → ¬ WritesByte t (s.ssp - 3) k →
      (WritesByte t (s.ssp - 2) k → t.ramByte k = low) ∧ (WritesByte t (s.ssp - 1) k → t.ramByte k = statusByte s.ps))) ∧
  (∀ k, (∀ j < 4, ¬ WritesByte t (s.ssp - 4 + BitVec.ofNat 16 j) k) → t.ramByte k = s.ramByte k) ∧
  (∀ k, t.romByte k = s.romByte k) ∧
  ∀ v, HoldsWord t (s.ia + BitVec.ofNat 16 (2 * index)) v → t.pc = v

/-- The events of a step boundary (00_scope.md R11, 60_exceptions.md R380 to R387; D5, D21, D22): Reset comes first; Clock is taken
only while the tick is enabled, a hardware interrupt only while I is set and Q clear, with II at the lowest asserting device,
BusRefresh and DebugQuery always; at most one is taken, with PC as return address, and any eligible one may be; where none is
eligible the step goes on without one, and an event that is not taken is not recorded. -/
def Obligations.AsyncEventsAtBoundary : Prop := ∀ (s : State) (g : Signals) (rest : List Signals), s.inputs = g :: rest →
  let t := s.setInputs rest
  let eligible (c : Cause) : Prop :=
    (c = .clock ∧ g.clockTick = true ∧ s.tick ≠ .disabled) ∨
    (c = .hwi ∧ s.ps.I = true ∧ s.ps.Q = false ∧ ∃ d ∈ g.irqs, 1 ≤ d ∧ d ≤ 255) ∨
    (c = .busRefresh ∧ g.busRefresh = true) ∨ (c = .debugQuery ∧ g.debugRise = true)
  let takes (pick : Nat) (c : Cause) : Prop :=
    (c ≠ .hwi → step { s with inputs := { g with pick := pick } :: rest } = .next (takeInterrupt c s.pc t)) ∧
    (c = .hwi → ∀ d ∈ g.irqs, 1 ≤ d → d ≤ 255 → (∀ d' ∈ g.irqs, 1 ≤ d' → d ≤ d') →
      step { s with inputs := { g with pick := pick } :: rest } = .next (takeInterrupt .hwi s.pc (t.setIi (BitVec.ofNat 16 d))))
  (g.reset = true → step s = .next (performReset t)) ∧
  (g.reset = false → (∀ c, ¬ eligible c) → step s = runInstr t) ∧
  (g.reset = false → (∃ c, eligible c) → ∃ c, eligible c ∧ takes g.pick c) ∧
  (g.reset = false → ∀ c, eligible c → ∃ pick, takes pick c)

/-- A fair environment (60_exceptions.md R383, R388, R392; D22, D37; the reading is log entry 31). Fairness assumes no more: from
every state, whatever the environment presents at the first boundaries, it can go on so that it is fair. An event that stays
signalled from a boundary on, without a Reset, is taken at some boundary after it; for a hardware interrupt I must be set and Q
clear again and again. A halted processor whose tick is enabled does not stay halted. -/
def Obligations.FairEnvironmentServesEvents : Prop :=
  (∀ (s : State) (l : List Signals), ∃ env : Environment,
    FairEnvironment env s ∧ ∀ (n : Nat) (h : n < l.length), env n = l[n]) ∧
  (∀ (env : Environment) (s : State) (c : Cause) (n : Nat), FairToEvents env s →
    (∀ m ≥ n, SignalledAt env s c m ∧ (env m).reset = false) →
    (c = .hwi → ∀ m ≥ n, ∃ k ≥ m, ∃ t, runUnder env s k = .next t ∧ t.ps.I = true ∧ t.ps.Q = false) →
    ∃ m ≥ n, ∃ t, runUnder env s m = .next t ∧
      runUnder env s (m + 1) = .next (takeInterrupt c t.pc (recordIrq c (env m) (t.setInputs [])))) ∧
  (∀ (env : Environment) (s : State), FairClock env s → s.halted = true → s.tick ≠ .disabled →
    ∃ n t, runUnder env s n = .next t ∧ t.halted = false)

/-- Reset (70_reset_and_hazards.md R420, R421, R422, 10_state.md R42, R43; D42): PS is $8000 with its low byte zero, IA is 0, the
tick is disabled, the bank map is the default with ROM bank 0 at $0000, the processor is not halted, PC is the word in bytes 0
and 1 of ROM bank 0, and the time goes on; what the rule does not name is not claimed. The state after power on agrees. -/
def Obligations.ResetLeavesKnownState : Prop := ∀ s : State,
  let good (t : State) : Prop :=
    t.ps = { S := true, M := false, I := false, R := false, Q := false, U := false, W := false, E := false } ∧
    t.psClean = true ∧ t.ia = 0 ∧ t.tick = .disabled ∧ t.halted = false ∧
    (∀ k, t.bank k = if k.val = 0 then ⟨.rom, 0⟩ else ⟨.ram, k.val⟩) ∧ t.pc = t.romByte 1 ++ t.romByte 0
  good (performReset s) ∧ good State.reset ∧ (performReset s).rtcTime = s.rtcTime ∧ (performReset s).cfg = s.cfg ∧
    (performReset s).inputs = s.inputs

/-- A step runs the decoded instruction (00_scope.md R11, 20_memory.md R66, R72): where nothing is signalled and the processor is
not halted, the bytes that execute accesses find from the address PC without its low bit on, in RAM or ROM, decode to `i`, then
the step is `exec i`; a fetch that faults takes the bank fault with that address as return address and nothing changed. -/
def Obligations.StepRunsDecoded : Prop := ∀ s : State, s.halted = false →
  (s.inputs = [] → step s = runInstr s) ∧
  (∀ (i : Instr) (bs : List Byte), decode bs = .ok (i, []) →
    (∀ (j : Nat) (h : j < bs.length), HoldsByte s .exec (addrOf s + BitVec.ofNat 16 j) bs[j]) → runInstr s = exec i s) ∧
  (∀ c, translatePair s (addrOf s) .exec = .error c → runInstr s = .next (takeInterrupt c (addrOf s) s)) ∧
  (∀ c b0 b1, HoldsByte s .exec (addrOf s) b0 → HoldsByte s .exec (addrOf s + 1) b1 →
    (∀ r, decode [b0, b1] ≠ .ok r) → (s.ps.S = true ∨ b0.toNat ∉ [0xC2, 0xCE, 0xCF]) →
    translatePair s (addrOf s + 2) .exec = .error c → runInstr s = .next (takeInterrupt c (addrOf s) s))

/-- Some words of the spec's own examples, in memory order, decode to the instructions they stand for (30_encoding.md R112 to
R132; 40_alu.md to 49_processor.md, the examples). -/
def Obligations.DecodeWordsOfExamples : Prop :=
  decode [0x00, 0x00, 0x34, 0x12] = .ok (.lod 0 (.imm 0x1234), []) ∧
  decode [0xA0, 0x08] = .ok (.asl 0 (.imm 8), []) ∧
  decode [0xA9, 0x00] = .ok (.btx 0 (.imm 0), []) ∧
  decode [0x90, 0x04] = .ok (.bcc 4, []) ∧
  decode [0xAD, 0x29] = .ok (.fps 1 2, []) ∧
  decode [0xB8, 0x64] = .ok (.adi 3 4, []) ∧
  decode [0xC0, 0xE6] = .ok (.jmp (.indexed 1 6), []) ∧
  decode [0xC0, 0x64, 0x34, 0x12] = .ok (.jmp (.indOff 1 0x1234), []) ∧
  decode [0xB1, 0x09] = .ok (.pshSpecial 0b01001, []) ∧
  decode [0xB3, 0x08] = .ok (.rts, []) ∧
  decode [0xAC, 0x21] = .ok (.swo 1 0 .hr, []) ∧
  decode [0xB4, 0x20] = .ok (.mim 1 0, []) ∧
  decode [0xCD, 0x20] = .ok (.mmw 1 0, []) ∧
  decode [0xBA, 0x21] = .ok (.tsr 1 1, []) ∧
  decode [0xC7, 0x00] = .ok (.rti, [])

/-- Decode and encode agree (30_encoding.md R112 to R136, R138): every well-formed instruction, with every operand at every value,
is the instruction its encoding decodes to, whatever bytes follow; every pair of words decodes to a well-formed instruction. -/
def Obligations.DecodeEncodeAgree : Prop :=
  (∀ (i : Instr) (rest : List Byte), i.wellFormed = true → decode (bytesOf (encode i) ++ rest) = .ok (i, rest)) ∧
  (∀ w nw : Word, (decodeWords w nw).wellFormed = true)

-- The whole machine.

/-- The invariant that every step keeps: the memory is in canonical form, no byte is listed outside the RAM the chip has, every
entry of the bank map is a bank the chip has, PS is as Reset left it while it counts as not written since (10_state.md R37, R43;
20_memory.md R61, R74, R78, R79). No step changes the parameters. -/
def Obligations.StepKeepsInv : Prop := ∀ s t : State, s.Inv → step s = .next t → t.Inv ∧ t.cfg = s.cfg

/-- The invariant holds after Reset. -/
def Obligations.ResetHasInv : Prop := State.reset.Inv

/-- What User mode cannot do (60_exceptions.md R370, R378, R400, R401; 10_state.md R41; 20_memory.md R85, R86): a step from User
mode enters Supervisor mode only by the interrupt sequence or by Reset; a step that stays in User mode changes neither PS nor
IA, II, P2, SSP, the tick, the halted state, the parameters or ROM, nor the MMU cache but for A bits, nor any byte of RAM that no
address lets it write. -/
def Obligations.UserIsolation : Prop := ∀ s t : State, s.ps.S = false → step s = .next t →
  (t.ps.S = true → (∃ c ret u, t = takeInterrupt c ret u ∧ u.ps = s.ps ∧ u.ia = s.ia ∧ u.ssp = s.ssp) ∨
    ∃ g rest, s.inputs = g :: rest ∧ g.reset = true ∧ t = performReset (s.setInputs rest)) ∧
  (t.ps.S = false → t.ps = s.ps ∧ t.ia = s.ia ∧ t.ii = s.ii ∧ t.p2 = s.p2 ∧ t.ssp = s.ssp ∧ t.tick = s.tick ∧
    t.halted = s.halted ∧ t.cfg = s.cfg ∧ SameMmuButAccessed s t ∧
    ∀ k, (∀ a, ¬ WritesByte s a k) → t.ramByte k = s.ramByte k)
end

