-- ==== Sys2Proof/Laws/Bits.lean ====
section
/-! SUPPORT. The laws of byte order and of the status words. -/

namespace Sys2Proof

theorem getLsbD_wordOf (lo hi : Byte) (i : Nat) :
    (wordOf lo hi).getLsbD i = if i < 8 then lo.getLsbD i else hi.getLsbD (i - 8) :=
  BitVec.getLsbD_append

@[simp] theorem loByte_wordOf (lo hi : Byte) : loByte (wordOf lo hi) = lo := by
  unfold loByte
  ext i hi'
  simp [getLsbD_wordOf, hi']

@[simp] theorem hiByte_wordOf (lo hi : Byte) : hiByte (wordOf lo hi) = hi := by
  unfold hiByte
  ext i hi'
  simp [getLsbD_wordOf, BitVec.getLsbD_eq_getElem hi']

@[simp] theorem wordOf_bytes (w : Word) : wordOf (loByte w) (hiByte w) = w := by
  apply BitVec.eq_of_getLsbD_eq
  intro i hi
  rw [getLsbD_wordOf]
  unfold loByte hiByte
  simp only [BitVec.getLsbD_extractLsb']
  split
  · simp [*]
  · have : i - 8 < 8 := by omega
    have e : 8 + (i - 8) = i := by omega
    simp [this, e]

theorem bankOf_val (a : Word) : (bankOf a).val = a.toNat / 4096 := by
  have := a.isLt
  simp only [bankOf, BitVec.extractLsb'_toNat, Nat.shiftRight_eq_div_pow]
  omega

theorem offsetOf_toNat (a : Word) : (offsetOf a).toNat = a.toNat % 4096 := by
  simp [offsetOf, BitVec.extractLsb'_toNat]

theorem getLsbD_hiByte (w : Word) (i : Nat) (h : i < 8) : (hiByte w).getLsbD i = w.getLsbD (8 + i) := by
  simp [hiByte, h]

theorem getLsbD_loByte (w : Word) (i : Nat) (h : i < 8) : (loByte w).getLsbD i = w.getLsbD i := by
  simp [loByte, h]

end Sys2Proof

namespace Sys2Proof.Machine

@[simp] theorem statusOf_statusByte (p : Status) : statusOf (statusByte p) = p := by
  obtain ⟨a, b, c, d, e, f, g, h⟩ := p
  revert a b c d e f g h
  decide

@[simp] theorem statusByte_statusOf (b : Byte) : statusByte (statusOf b) = b := by
  revert b
  decide

theorem getLsbD_flagsWord (f : Flags) (low : BitVec 12) (i : Nat) :
    (flagsWord f low).getLsbD i = if i < 12 then low.getLsbD i else
      (BitVec.ofBool f.N ++ BitVec.ofBool f.Z ++ BitVec.ofBool f.C ++ BitVec.ofBool f.V).getLsbD (i - 12) :=
  BitVec.getLsbD_append

@[simp] theorem flagsOf_flagsWord (f : Flags) (low : BitVec 12) : flagsOf (hiByte (flagsWord f low)) = f := by
  obtain ⟨n, z, c, v⟩ := f
  unfold flagsOf
  simp only [getLsbD_hiByte _ _ (show 7 < 8 by omega), getLsbD_hiByte _ _ (show 6 < 8 by omega),
    getLsbD_hiByte _ _ (show 5 < 8 by omega), getLsbD_hiByte _ _ (show 4 < 8 by omega), getLsbD_flagsWord]
  simp only [show ¬ 8 + 7 < 12 by omega, show ¬ 8 + 6 < 12 by omega, show ¬ 8 + 5 < 12 by omega,
    show ¬ 8 + 4 < 12 by omega, if_false]
  revert n z c v
  decide

end Sys2Proof.Machine
end

