-- ==== Sys2Proof/Laws/State.lean ====
section
/-! SUPPORT. One lemma per field per update of State, so that no proof unfolds a record update. -/

namespace Sys2Proof.Machine

variable (s : State)

-- setReg

@[simp] theorem setReg_regs (r : Reg) (v : Word) : (s.setReg r v).regs = s.regs.set r v := rfl
@[simp] theorem setReg_fl (r : Reg) (v : Word) : (s.setReg r v).fl = s.fl := rfl
@[simp] theorem setReg_ps (r : Reg) (v : Word) : (s.setReg r v).ps = s.ps := rfl
@[simp] theorem setReg_psClean (r : Reg) (v : Word) : (s.setReg r v).psClean = s.psClean := rfl
@[simp] theorem setReg_pc (r : Reg) (v : Word) : (s.setReg r v).pc = s.pc := rfl
@[simp] theorem setReg_ia (r : Reg) (v : Word) : (s.setReg r v).ia = s.ia := rfl
@[simp] theorem setReg_ii (r : Reg) (v : Word) : (s.setReg r v).ii = s.ii := rfl
@[simp] theorem setReg_p2 (r : Reg) (v : Word) : (s.setReg r v).p2 = s.p2 := rfl
@[simp] theorem setReg_ssp (r : Reg) (v : Word) : (s.setReg r v).ssp = s.ssp := rfl
@[simp] theorem setReg_usp (r : Reg) (v : Word) : (s.setReg r v).usp = s.usp := rfl
@[simp] theorem setReg_mmu (r : Reg) (v : Word) : (s.setReg r v).mmu = s.mmu := rfl
@[simp] theorem setReg_im (r : Reg) (v : Word) : (s.setReg r v).im = s.im := rfl
@[simp] theorem setReg_ram (r : Reg) (v : Word) : (s.setReg r v).ram = s.ram := rfl
@[simp] theorem setReg_ramEpoch (r : Reg) (v : Word) : (s.setReg r v).ramEpoch = s.ramEpoch := rfl
@[simp] theorem setReg_halted (r : Reg) (v : Word) : (s.setReg r v).halted = s.halted := rfl
@[simp] theorem setReg_tick (r : Reg) (v : Word) : (s.setReg r v).tick = s.tick := rfl
@[simp] theorem setReg_rtcTime (r : Reg) (v : Word) : (s.setReg r v).rtcTime = s.rtcTime := rfl
@[simp] theorem setReg_inputs (r : Reg) (v : Word) : (s.setReg r v).inputs = s.inputs := rfl
@[simp] theorem setReg_bus (r : Reg) (v : Word) : (s.setReg r v).bus = s.bus := rfl
@[simp] theorem setReg_free (r : Reg) (v : Word) : (s.setReg r v).free = s.free := rfl
@[simp] theorem setReg_cfg (r : Reg) (v : Word) : (s.setReg r v).cfg = s.cfg := rfl
@[simp] theorem setReg_mmuWord (r : Reg) (v : Word) (i : Fin 32) : (s.setReg r v).mmuWord i = s.mmuWord i := rfl
@[simp] theorem setReg_bank (r : Reg) (v : Word) (i : Fin 16) : (s.setReg r v).bank i = s.bank i := rfl
@[simp] theorem setReg_sp (r : Reg) (v : Word) : (s.setReg r v).sp = s.sp := rfl
@[simp] theorem setReg_ramByte (r : Reg) (v : Word) (a : Nat) : (s.setReg r v).ramByte a = s.ramByte a := rfl
@[simp] theorem setReg_romByte (r : Reg) (v : Word) (a : Nat) : (s.setReg r v).romByte a = s.romByte a := rfl

-- setFl

@[simp] theorem setFl_regs (v : Flags) : (s.setFl v).regs = s.regs := rfl
@[simp] theorem setFl_fl (v : Flags) : (s.setFl v).fl = v := rfl
@[simp] theorem setFl_ps (v : Flags) : (s.setFl v).ps = s.ps := rfl
@[simp] theorem setFl_psClean (v : Flags) : (s.setFl v).psClean = s.psClean := rfl
@[simp] theorem setFl_pc (v : Flags) : (s.setFl v).pc = s.pc := rfl
@[simp] theorem setFl_ia (v : Flags) : (s.setFl v).ia = s.ia := rfl
@[simp] theorem setFl_ii (v : Flags) : (s.setFl v).ii = s.ii := rfl
@[simp] theorem setFl_p2 (v : Flags) : (s.setFl v).p2 = s.p2 := rfl
@[simp] theorem setFl_ssp (v : Flags) : (s.setFl v).ssp = s.ssp := rfl
@[simp] theorem setFl_usp (v : Flags) : (s.setFl v).usp = s.usp := rfl
@[simp] theorem setFl_mmu (v : Flags) : (s.setFl v).mmu = s.mmu := rfl
@[simp] theorem setFl_im (v : Flags) : (s.setFl v).im = s.im := rfl
@[simp] theorem setFl_ram (v : Flags) : (s.setFl v).ram = s.ram := rfl
@[simp] theorem setFl_ramEpoch (v : Flags) : (s.setFl v).ramEpoch = s.ramEpoch := rfl
@[simp] theorem setFl_halted (v : Flags) : (s.setFl v).halted = s.halted := rfl
@[simp] theorem setFl_tick (v : Flags) : (s.setFl v).tick = s.tick := rfl
@[simp] theorem setFl_rtcTime (v : Flags) : (s.setFl v).rtcTime = s.rtcTime := rfl
@[simp] theorem setFl_inputs (v : Flags) : (s.setFl v).inputs = s.inputs := rfl
@[simp] theorem setFl_bus (v : Flags) : (s.setFl v).bus = s.bus := rfl
@[simp] theorem setFl_free (v : Flags) : (s.setFl v).free = s.free := rfl
@[simp] theorem setFl_cfg (v : Flags) : (s.setFl v).cfg = s.cfg := rfl
@[simp] theorem setFl_reg (v : Flags) (i : Reg) : (s.setFl v).reg i = s.reg i := rfl
@[simp] theorem setFl_mmuWord (v : Flags) (i : Fin 32) : (s.setFl v).mmuWord i = s.mmuWord i := rfl
@[simp] theorem setFl_bank (v : Flags) (i : Fin 16) : (s.setFl v).bank i = s.bank i := rfl
@[simp] theorem setFl_sp (v : Flags) : (s.setFl v).sp = s.sp := rfl
@[simp] theorem setFl_ramByte (v : Flags) (a : Nat) : (s.setFl v).ramByte a = s.ramByte a := rfl
@[simp] theorem setFl_romByte (v : Flags) (a : Nat) : (s.setFl v).romByte a = s.romByte a := rfl

-- setPs

@[simp] theorem setPs_regs (v : Status) : (s.setPs v).regs = s.regs := rfl
@[simp] theorem setPs_fl (v : Status) : (s.setPs v).fl = s.fl := rfl
@[simp] theorem setPs_ps (v : Status) : (s.setPs v).ps = v := rfl
@[simp] theorem setPs_psClean (v : Status) : (s.setPs v).psClean = false := rfl
@[simp] theorem setPs_pc (v : Status) : (s.setPs v).pc = s.pc := rfl
@[simp] theorem setPs_ia (v : Status) : (s.setPs v).ia = s.ia := rfl
@[simp] theorem setPs_ii (v : Status) : (s.setPs v).ii = s.ii := rfl
@[simp] theorem setPs_p2 (v : Status) : (s.setPs v).p2 = s.p2 := rfl
@[simp] theorem setPs_ssp (v : Status) : (s.setPs v).ssp = s.ssp := rfl
@[simp] theorem setPs_usp (v : Status) : (s.setPs v).usp = s.usp := rfl
@[simp] theorem setPs_mmu (v : Status) : (s.setPs v).mmu = s.mmu := rfl
@[simp] theorem setPs_im (v : Status) : (s.setPs v).im = s.im := rfl
@[simp] theorem setPs_ram (v : Status) : (s.setPs v).ram = s.ram := rfl
@[simp] theorem setPs_ramEpoch (v : Status) : (s.setPs v).ramEpoch = s.ramEpoch := rfl
@[simp] theorem setPs_halted (v : Status) : (s.setPs v).halted = s.halted := rfl
@[simp] theorem setPs_tick (v : Status) : (s.setPs v).tick = s.tick := rfl
@[simp] theorem setPs_rtcTime (v : Status) : (s.setPs v).rtcTime = s.rtcTime := rfl
@[simp] theorem setPs_inputs (v : Status) : (s.setPs v).inputs = s.inputs := rfl
@[simp] theorem setPs_bus (v : Status) : (s.setPs v).bus = s.bus := rfl
@[simp] theorem setPs_free (v : Status) : (s.setPs v).free = s.free := rfl
@[simp] theorem setPs_cfg (v : Status) : (s.setPs v).cfg = s.cfg := rfl
@[simp] theorem setPs_reg (v : Status) (i : Reg) : (s.setPs v).reg i = s.reg i := rfl
@[simp] theorem setPs_mmuWord (v : Status) (i : Fin 32) : (s.setPs v).mmuWord i = s.mmuWord i := rfl
@[simp] theorem setPs_bank (v : Status) (i : Fin 16) : (s.setPs v).bank i = s.bank i := rfl
@[simp] theorem setPs_ramByte (v : Status) (a : Nat) : (s.setPs v).ramByte a = s.ramByte a := rfl
@[simp] theorem setPs_romByte (v : Status) (a : Nat) : (s.setPs v).romByte a = s.romByte a := rfl

-- setPc

@[simp] theorem setPc_regs (v : Word) : (s.setPc v).regs = s.regs := rfl
@[simp] theorem setPc_fl (v : Word) : (s.setPc v).fl = s.fl := rfl
@[simp] theorem setPc_ps (v : Word) : (s.setPc v).ps = s.ps := rfl
@[simp] theorem setPc_psClean (v : Word) : (s.setPc v).psClean = s.psClean := rfl
@[simp] theorem setPc_pc (v : Word) : (s.setPc v).pc = v := rfl
@[simp] theorem setPc_ia (v : Word) : (s.setPc v).ia = s.ia := rfl
@[simp] theorem setPc_ii (v : Word) : (s.setPc v).ii = s.ii := rfl
@[simp] theorem setPc_p2 (v : Word) : (s.setPc v).p2 = s.p2 := rfl
@[simp] theorem setPc_ssp (v : Word) : (s.setPc v).ssp = s.ssp := rfl
@[simp] theorem setPc_usp (v : Word) : (s.setPc v).usp = s.usp := rfl
@[simp] theorem setPc_mmu (v : Word) : (s.setPc v).mmu = s.mmu := rfl
@[simp] theorem setPc_im (v : Word) : (s.setPc v).im = s.im := rfl
@[simp] theorem setPc_ram (v : Word) : (s.setPc v).ram = s.ram := rfl
@[simp] theorem setPc_ramEpoch (v : Word) : (s.setPc v).ramEpoch = s.ramEpoch := rfl
@[simp] theorem setPc_halted (v : Word) : (s.setPc v).halted = s.halted := rfl
@[simp] theorem setPc_tick (v : Word) : (s.setPc v).tick = s.tick := rfl
@[simp] theorem setPc_rtcTime (v : Word) : (s.setPc v).rtcTime = s.rtcTime := rfl
@[simp] theorem setPc_inputs (v : Word) : (s.setPc v).inputs = s.inputs := rfl
@[simp] theorem setPc_bus (v : Word) : (s.setPc v).bus = s.bus := rfl
@[simp] theorem setPc_free (v : Word) : (s.setPc v).free = s.free := rfl
@[simp] theorem setPc_cfg (v : Word) : (s.setPc v).cfg = s.cfg := rfl
@[simp] theorem setPc_reg (v : Word) (i : Reg) : (s.setPc v).reg i = s.reg i := rfl
@[simp] theorem setPc_mmuWord (v : Word) (i : Fin 32) : (s.setPc v).mmuWord i = s.mmuWord i := rfl
@[simp] theorem setPc_bank (v : Word) (i : Fin 16) : (s.setPc v).bank i = s.bank i := rfl
@[simp] theorem setPc_sp (v : Word) : (s.setPc v).sp = s.sp := rfl
@[simp] theorem setPc_ramByte (v : Word) (a : Nat) : (s.setPc v).ramByte a = s.ramByte a := rfl
@[simp] theorem setPc_romByte (v : Word) (a : Nat) : (s.setPc v).romByte a = s.romByte a := rfl

-- setIa

@[simp] theorem setIa_regs (v : Word) : (s.setIa v).regs = s.regs := rfl
@[simp] theorem setIa_fl (v : Word) : (s.setIa v).fl = s.fl := rfl
@[simp] theorem setIa_ps (v : Word) : (s.setIa v).ps = s.ps := rfl
@[simp] theorem setIa_psClean (v : Word) : (s.setIa v).psClean = s.psClean := rfl
@[simp] theorem setIa_pc (v : Word) : (s.setIa v).pc = s.pc := rfl
@[simp] theorem setIa_ia (v : Word) : (s.setIa v).ia = v := rfl
@[simp] theorem setIa_ii (v : Word) : (s.setIa v).ii = s.ii := rfl
@[simp] theorem setIa_p2 (v : Word) : (s.setIa v).p2 = s.p2 := rfl
@[simp] theorem setIa_ssp (v : Word) : (s.setIa v).ssp = s.ssp := rfl
@[simp] theorem setIa_usp (v : Word) : (s.setIa v).usp = s.usp := rfl
@[simp] theorem setIa_mmu (v : Word) : (s.setIa v).mmu = s.mmu := rfl
@[simp] theorem setIa_im (v : Word) : (s.setIa v).im = s.im := rfl
@[simp] theorem setIa_ram (v : Word) : (s.setIa v).ram = s.ram := rfl
@[simp] theorem setIa_ramEpoch (v : Word) : (s.setIa v).ramEpoch = s.ramEpoch := rfl
@[simp] theorem setIa_halted (v : Word) : (s.setIa v).halted = s.halted := rfl
@[simp] theorem setIa_tick (v : Word) : (s.setIa v).tick = s.tick := rfl
@[simp] theorem setIa_rtcTime (v : Word) : (s.setIa v).rtcTime = s.rtcTime := rfl
@[simp] theorem setIa_inputs (v : Word) : (s.setIa v).inputs = s.inputs := rfl
@[simp] theorem setIa_bus (v : Word) : (s.setIa v).bus = s.bus := rfl
@[simp] theorem setIa_free (v : Word) : (s.setIa v).free = s.free := rfl
@[simp] theorem setIa_cfg (v : Word) : (s.setIa v).cfg = s.cfg := rfl
@[simp] theorem setIa_reg (v : Word) (i : Reg) : (s.setIa v).reg i = s.reg i := rfl
@[simp] theorem setIa_mmuWord (v : Word) (i : Fin 32) : (s.setIa v).mmuWord i = s.mmuWord i := rfl
@[simp] theorem setIa_bank (v : Word) (i : Fin 16) : (s.setIa v).bank i = s.bank i := rfl
@[simp] theorem setIa_sp (v : Word) : (s.setIa v).sp = s.sp := rfl
@[simp] theorem setIa_ramByte (v : Word) (a : Nat) : (s.setIa v).ramByte a = s.ramByte a := rfl
@[simp] theorem setIa_romByte (v : Word) (a : Nat) : (s.setIa v).romByte a = s.romByte a := rfl

-- setIi

@[simp] theorem setIi_regs (v : Word) : (s.setIi v).regs = s.regs := rfl
@[simp] theorem setIi_fl (v : Word) : (s.setIi v).fl = s.fl := rfl
@[simp] theorem setIi_ps (v : Word) : (s.setIi v).ps = s.ps := rfl
@[simp] theorem setIi_psClean (v : Word) : (s.setIi v).psClean = s.psClean := rfl
@[simp] theorem setIi_pc (v : Word) : (s.setIi v).pc = s.pc := rfl
@[simp] theorem setIi_ia (v : Word) : (s.setIi v).ia = s.ia := rfl
@[simp] theorem setIi_ii (v : Word) : (s.setIi v).ii = v := rfl
@[simp] theorem setIi_p2 (v : Word) : (s.setIi v).p2 = s.p2 := rfl
@[simp] theorem setIi_ssp (v : Word) : (s.setIi v).ssp = s.ssp := rfl
@[simp] theorem setIi_usp (v : Word) : (s.setIi v).usp = s.usp := rfl
@[simp] theorem setIi_mmu (v : Word) : (s.setIi v).mmu = s.mmu := rfl
@[simp] theorem setIi_im (v : Word) : (s.setIi v).im = s.im := rfl
@[simp] theorem setIi_ram (v : Word) : (s.setIi v).ram = s.ram := rfl
@[simp] theorem setIi_ramEpoch (v : Word) : (s.setIi v).ramEpoch = s.ramEpoch := rfl
@[simp] theorem setIi_halted (v : Word) : (s.setIi v).halted = s.halted := rfl
@[simp] theorem setIi_tick (v : Word) : (s.setIi v).tick = s.tick := rfl
@[simp] theorem setIi_rtcTime (v : Word) : (s.setIi v).rtcTime = s.rtcTime := rfl
@[simp] theorem setIi_inputs (v : Word) : (s.setIi v).inputs = s.inputs := rfl
@[simp] theorem setIi_bus (v : Word) : (s.setIi v).bus = s.bus := rfl
@[simp] theorem setIi_free (v : Word) : (s.setIi v).free = s.free := rfl
@[simp] theorem setIi_cfg (v : Word) : (s.setIi v).cfg = s.cfg := rfl
@[simp] theorem setIi_reg (v : Word) (i : Reg) : (s.setIi v).reg i = s.reg i := rfl
@[simp] theorem setIi_mmuWord (v : Word) (i : Fin 32) : (s.setIi v).mmuWord i = s.mmuWord i := rfl
@[simp] theorem setIi_bank (v : Word) (i : Fin 16) : (s.setIi v).bank i = s.bank i := rfl
@[simp] theorem setIi_sp (v : Word) : (s.setIi v).sp = s.sp := rfl
@[simp] theorem setIi_ramByte (v : Word) (a : Nat) : (s.setIi v).ramByte a = s.ramByte a := rfl
@[simp] theorem setIi_romByte (v : Word) (a : Nat) : (s.setIi v).romByte a = s.romByte a := rfl

-- setP2

@[simp] theorem setP2_regs (v : Word) : (s.setP2 v).regs = s.regs := rfl
@[simp] theorem setP2_fl (v : Word) : (s.setP2 v).fl = s.fl := rfl
@[simp] theorem setP2_ps (v : Word) : (s.setP2 v).ps = s.ps := rfl
@[simp] theorem setP2_psClean (v : Word) : (s.setP2 v).psClean = s.psClean := rfl
@[simp] theorem setP2_pc (v : Word) : (s.setP2 v).pc = s.pc := rfl
@[simp] theorem setP2_ia (v : Word) : (s.setP2 v).ia = s.ia := rfl
@[simp] theorem setP2_ii (v : Word) : (s.setP2 v).ii = s.ii := rfl
@[simp] theorem setP2_p2 (v : Word) : (s.setP2 v).p2 = v := rfl
@[simp] theorem setP2_ssp (v : Word) : (s.setP2 v).ssp = s.ssp := rfl
@[simp] theorem setP2_usp (v : Word) : (s.setP2 v).usp = s.usp := rfl
@[simp] theorem setP2_mmu (v : Word) : (s.setP2 v).mmu = s.mmu := rfl
@[simp] theorem setP2_im (v : Word) : (s.setP2 v).im = s.im := rfl
@[simp] theorem setP2_ram (v : Word) : (s.setP2 v).ram = s.ram := rfl
@[simp] theorem setP2_ramEpoch (v : Word) : (s.setP2 v).ramEpoch = s.ramEpoch := rfl
@[simp] theorem setP2_halted (v : Word) : (s.setP2 v).halted = s.halted := rfl
@[simp] theorem setP2_tick (v : Word) : (s.setP2 v).tick = s.tick := rfl
@[simp] theorem setP2_rtcTime (v : Word) : (s.setP2 v).rtcTime = s.rtcTime := rfl
@[simp] theorem setP2_inputs (v : Word) : (s.setP2 v).inputs = s.inputs := rfl
@[simp] theorem setP2_bus (v : Word) : (s.setP2 v).bus = s.bus := rfl
@[simp] theorem setP2_free (v : Word) : (s.setP2 v).free = s.free := rfl
@[simp] theorem setP2_cfg (v : Word) : (s.setP2 v).cfg = s.cfg := rfl
@[simp] theorem setP2_reg (v : Word) (i : Reg) : (s.setP2 v).reg i = s.reg i := rfl
@[simp] theorem setP2_mmuWord (v : Word) (i : Fin 32) : (s.setP2 v).mmuWord i = s.mmuWord i := rfl
@[simp] theorem setP2_bank (v : Word) (i : Fin 16) : (s.setP2 v).bank i = s.bank i := rfl
@[simp] theorem setP2_sp (v : Word) : (s.setP2 v).sp = s.sp := rfl
@[simp] theorem setP2_ramByte (v : Word) (a : Nat) : (s.setP2 v).ramByte a = s.ramByte a := rfl
@[simp] theorem setP2_romByte (v : Word) (a : Nat) : (s.setP2 v).romByte a = s.romByte a := rfl

-- setSsp

@[simp] theorem setSsp_regs (v : Word) : (s.setSsp v).regs = s.regs := rfl
@[simp] theorem setSsp_fl (v : Word) : (s.setSsp v).fl = s.fl := rfl
@[simp] theorem setSsp_ps (v : Word) : (s.setSsp v).ps = s.ps := rfl
@[simp] theorem setSsp_psClean (v : Word) : (s.setSsp v).psClean = s.psClean := rfl
@[simp] theorem setSsp_pc (v : Word) : (s.setSsp v).pc = s.pc := rfl
@[simp] theorem setSsp_ia (v : Word) : (s.setSsp v).ia = s.ia := rfl
@[simp] theorem setSsp_ii (v : Word) : (s.setSsp v).ii = s.ii := rfl
@[simp] theorem setSsp_p2 (v : Word) : (s.setSsp v).p2 = s.p2 := rfl
@[simp] theorem setSsp_ssp (v : Word) : (s.setSsp v).ssp = v := rfl
@[simp] theorem setSsp_usp (v : Word) : (s.setSsp v).usp = s.usp := rfl
@[simp] theorem setSsp_mmu (v : Word) : (s.setSsp v).mmu = s.mmu := rfl
@[simp] theorem setSsp_im (v : Word) : (s.setSsp v).im = s.im := rfl
@[simp] theorem setSsp_ram (v : Word) : (s.setSsp v).ram = s.ram := rfl
@[simp] theorem setSsp_ramEpoch (v : Word) : (s.setSsp v).ramEpoch = s.ramEpoch := rfl
@[simp] theorem setSsp_halted (v : Word) : (s.setSsp v).halted = s.halted := rfl
@[simp] theorem setSsp_tick (v : Word) : (s.setSsp v).tick = s.tick := rfl
@[simp] theorem setSsp_rtcTime (v : Word) : (s.setSsp v).rtcTime = s.rtcTime := rfl
@[simp] theorem setSsp_inputs (v : Word) : (s.setSsp v).inputs = s.inputs := rfl
@[simp] theorem setSsp_bus (v : Word) : (s.setSsp v).bus = s.bus := rfl
@[simp] theorem setSsp_free (v : Word) : (s.setSsp v).free = s.free := rfl
@[simp] theorem setSsp_cfg (v : Word) : (s.setSsp v).cfg = s.cfg := rfl
@[simp] theorem setSsp_reg (v : Word) (i : Reg) : (s.setSsp v).reg i = s.reg i := rfl
@[simp] theorem setSsp_mmuWord (v : Word) (i : Fin 32) : (s.setSsp v).mmuWord i = s.mmuWord i := rfl
@[simp] theorem setSsp_bank (v : Word) (i : Fin 16) : (s.setSsp v).bank i = s.bank i := rfl
@[simp] theorem setSsp_ramByte (v : Word) (a : Nat) : (s.setSsp v).ramByte a = s.ramByte a := rfl
@[simp] theorem setSsp_romByte (v : Word) (a : Nat) : (s.setSsp v).romByte a = s.romByte a := rfl

-- setUsp

@[simp] theorem setUsp_regs (v : Word) : (s.setUsp v).regs = s.regs := rfl
@[simp] theorem setUsp_fl (v : Word) : (s.setUsp v).fl = s.fl := rfl
@[simp] theorem setUsp_ps (v : Word) : (s.setUsp v).ps = s.ps := rfl
@[simp] theorem setUsp_psClean (v : Word) : (s.setUsp v).psClean = s.psClean := rfl
@[simp] theorem setUsp_pc (v : Word) : (s.setUsp v).pc = s.pc := rfl
@[simp] theorem setUsp_ia (v : Word) : (s.setUsp v).ia = s.ia := rfl
@[simp] theorem setUsp_ii (v : Word) : (s.setUsp v).ii = s.ii := rfl
@[simp] theorem setUsp_p2 (v : Word) : (s.setUsp v).p2 = s.p2 := rfl
@[simp] theorem setUsp_ssp (v : Word) : (s.setUsp v).ssp = s.ssp := rfl
@[simp] theorem setUsp_usp (v : Word) : (s.setUsp v).usp = v := rfl
@[simp] theorem setUsp_mmu (v : Word) : (s.setUsp v).mmu = s.mmu := rfl
@[simp] theorem setUsp_im (v : Word) : (s.setUsp v).im = s.im := rfl
@[simp] theorem setUsp_ram (v : Word) : (s.setUsp v).ram = s.ram := rfl
@[simp] theorem setUsp_ramEpoch (v : Word) : (s.setUsp v).ramEpoch = s.ramEpoch := rfl
@[simp] theorem setUsp_halted (v : Word) : (s.setUsp v).halted = s.halted := rfl
@[simp] theorem setUsp_tick (v : Word) : (s.setUsp v).tick = s.tick := rfl
@[simp] theorem setUsp_rtcTime (v : Word) : (s.setUsp v).rtcTime = s.rtcTime := rfl
@[simp] theorem setUsp_inputs (v : Word) : (s.setUsp v).inputs = s.inputs := rfl
@[simp] theorem setUsp_bus (v : Word) : (s.setUsp v).bus = s.bus := rfl
@[simp] theorem setUsp_free (v : Word) : (s.setUsp v).free = s.free := rfl
@[simp] theorem setUsp_cfg (v : Word) : (s.setUsp v).cfg = s.cfg := rfl
@[simp] theorem setUsp_reg (v : Word) (i : Reg) : (s.setUsp v).reg i = s.reg i := rfl
@[simp] theorem setUsp_mmuWord (v : Word) (i : Fin 32) : (s.setUsp v).mmuWord i = s.mmuWord i := rfl
@[simp] theorem setUsp_bank (v : Word) (i : Fin 16) : (s.setUsp v).bank i = s.bank i := rfl
@[simp] theorem setUsp_ramByte (v : Word) (a : Nat) : (s.setUsp v).ramByte a = s.ramByte a := rfl
@[simp] theorem setUsp_romByte (v : Word) (a : Nat) : (s.setUsp v).romByte a = s.romByte a := rfl

-- setMmu

@[simp] theorem setMmu_regs (k : Fin 32) (v : Word) : (s.setMmu k v).regs = s.regs := rfl
@[simp] theorem setMmu_fl (k : Fin 32) (v : Word) : (s.setMmu k v).fl = s.fl := rfl
@[simp] theorem setMmu_ps (k : Fin 32) (v : Word) : (s.setMmu k v).ps = s.ps := rfl
@[simp] theorem setMmu_psClean (k : Fin 32) (v : Word) : (s.setMmu k v).psClean = s.psClean := rfl
@[simp] theorem setMmu_pc (k : Fin 32) (v : Word) : (s.setMmu k v).pc = s.pc := rfl
@[simp] theorem setMmu_ia (k : Fin 32) (v : Word) : (s.setMmu k v).ia = s.ia := rfl
@[simp] theorem setMmu_ii (k : Fin 32) (v : Word) : (s.setMmu k v).ii = s.ii := rfl
@[simp] theorem setMmu_p2 (k : Fin 32) (v : Word) : (s.setMmu k v).p2 = s.p2 := rfl
@[simp] theorem setMmu_ssp (k : Fin 32) (v : Word) : (s.setMmu k v).ssp = s.ssp := rfl
@[simp] theorem setMmu_usp (k : Fin 32) (v : Word) : (s.setMmu k v).usp = s.usp := rfl
@[simp] theorem setMmu_mmu (k : Fin 32) (v : Word) : (s.setMmu k v).mmu = s.mmu.set k v := rfl
@[simp] theorem setMmu_im (k : Fin 32) (v : Word) : (s.setMmu k v).im = s.im := rfl
@[simp] theorem setMmu_ram (k : Fin 32) (v : Word) : (s.setMmu k v).ram = s.ram := rfl
@[simp] theorem setMmu_ramEpoch (k : Fin 32) (v : Word) : (s.setMmu k v).ramEpoch = s.ramEpoch := rfl
@[simp] theorem setMmu_halted (k : Fin 32) (v : Word) : (s.setMmu k v).halted = s.halted := rfl
@[simp] theorem setMmu_tick (k : Fin 32) (v : Word) : (s.setMmu k v).tick = s.tick := rfl
@[simp] theorem setMmu_rtcTime (k : Fin 32) (v : Word) : (s.setMmu k v).rtcTime = s.rtcTime := rfl
@[simp] theorem setMmu_inputs (k : Fin 32) (v : Word) : (s.setMmu k v).inputs = s.inputs := rfl
@[simp] theorem setMmu_bus (k : Fin 32) (v : Word) : (s.setMmu k v).bus = s.bus := rfl
@[simp] theorem setMmu_free (k : Fin 32) (v : Word) : (s.setMmu k v).free = s.free := rfl
@[simp] theorem setMmu_cfg (k : Fin 32) (v : Word) : (s.setMmu k v).cfg = s.cfg := rfl
@[simp] theorem setMmu_reg (k : Fin 32) (v : Word) (i : Reg) : (s.setMmu k v).reg i = s.reg i := rfl
@[simp] theorem setMmu_bank (k : Fin 32) (v : Word) (i : Fin 16) : (s.setMmu k v).bank i = s.bank i := rfl
@[simp] theorem setMmu_sp (k : Fin 32) (v : Word) : (s.setMmu k v).sp = s.sp := rfl
@[simp] theorem setMmu_ramByte (k : Fin 32) (v : Word) (a : Nat) : (s.setMmu k v).ramByte a = s.ramByte a := rfl
@[simp] theorem setMmu_romByte (k : Fin 32) (v : Word) (a : Nat) : (s.setMmu k v).romByte a = s.romByte a := rfl

-- setBank

@[simp] theorem setBank_regs (k : Fin 16) (b : BankRef) : (s.setBank k b).regs = s.regs := rfl
@[simp] theorem setBank_fl (k : Fin 16) (b : BankRef) : (s.setBank k b).fl = s.fl := rfl
@[simp] theorem setBank_ps (k : Fin 16) (b : BankRef) : (s.setBank k b).ps = s.ps := rfl
@[simp] theorem setBank_psClean (k : Fin 16) (b : BankRef) : (s.setBank k b).psClean = s.psClean := rfl
@[simp] theorem setBank_pc (k : Fin 16) (b : BankRef) : (s.setBank k b).pc = s.pc := rfl
@[simp] theorem setBank_ia (k : Fin 16) (b : BankRef) : (s.setBank k b).ia = s.ia := rfl
@[simp] theorem setBank_ii (k : Fin 16) (b : BankRef) : (s.setBank k b).ii = s.ii := rfl
@[simp] theorem setBank_p2 (k : Fin 16) (b : BankRef) : (s.setBank k b).p2 = s.p2 := rfl
@[simp] theorem setBank_ssp (k : Fin 16) (b : BankRef) : (s.setBank k b).ssp = s.ssp := rfl
@[simp] theorem setBank_usp (k : Fin 16) (b : BankRef) : (s.setBank k b).usp = s.usp := rfl
@[simp] theorem setBank_mmu (k : Fin 16) (b : BankRef) : (s.setBank k b).mmu = s.mmu := rfl
@[simp] theorem setBank_im (k : Fin 16) (b : BankRef) : (s.setBank k b).im = s.im.set k b := rfl
@[simp] theorem setBank_ram (k : Fin 16) (b : BankRef) : (s.setBank k b).ram = s.ram := rfl
@[simp] theorem setBank_ramEpoch (k : Fin 16) (b : BankRef) : (s.setBank k b).ramEpoch = s.ramEpoch := rfl
@[simp] theorem setBank_halted (k : Fin 16) (b : BankRef) : (s.setBank k b).halted = s.halted := rfl
@[simp] theorem setBank_tick (k : Fin 16) (b : BankRef) : (s.setBank k b).tick = s.tick := rfl
@[simp] theorem setBank_rtcTime (k : Fin 16) (b : BankRef) : (s.setBank k b).rtcTime = s.rtcTime := rfl
@[simp] theorem setBank_inputs (k : Fin 16) (b : BankRef) : (s.setBank k b).inputs = s.inputs := rfl
@[simp] theorem setBank_bus (k : Fin 16) (b : BankRef) : (s.setBank k b).bus = s.bus := rfl
@[simp] theorem setBank_free (k : Fin 16) (b : BankRef) : (s.setBank k b).free = s.free := rfl
@[simp] theorem setBank_cfg (k : Fin 16) (b : BankRef) : (s.setBank k b).cfg = s.cfg := rfl
@[simp] theorem setBank_reg (k : Fin 16) (b : BankRef) (i : Reg) : (s.setBank k b).reg i = s.reg i := rfl
@[simp] theorem setBank_mmuWord (k : Fin 16) (b : BankRef) (i : Fin 32) : (s.setBank k b).mmuWord i = s.mmuWord i := rfl
@[simp] theorem setBank_sp (k : Fin 16) (b : BankRef) : (s.setBank k b).sp = s.sp := rfl
@[simp] theorem setBank_ramByte (k : Fin 16) (b : BankRef) (a : Nat) : (s.setBank k b).ramByte a = s.ramByte a := rfl
@[simp] theorem setBank_romByte (k : Fin 16) (b : BankRef) (a : Nat) : (s.setBank k b).romByte a = s.romByte a := rfl

-- setIm

@[simp] theorem setIm_regs (m : Vector BankRef 16) : (s.setIm m).regs = s.regs := rfl
@[simp] theorem setIm_fl (m : Vector BankRef 16) : (s.setIm m).fl = s.fl := rfl
@[simp] theorem setIm_ps (m : Vector BankRef 16) : (s.setIm m).ps = s.ps := rfl
@[simp] theorem setIm_psClean (m : Vector BankRef 16) : (s.setIm m).psClean = s.psClean := rfl
@[simp] theorem setIm_pc (m : Vector BankRef 16) : (s.setIm m).pc = s.pc := rfl
@[simp] theorem setIm_ia (m : Vector BankRef 16) : (s.setIm m).ia = s.ia := rfl
@[simp] theorem setIm_ii (m : Vector BankRef 16) : (s.setIm m).ii = s.ii := rfl
@[simp] theorem setIm_p2 (m : Vector BankRef 16) : (s.setIm m).p2 = s.p2 := rfl
@[simp] theorem setIm_ssp (m : Vector BankRef 16) : (s.setIm m).ssp = s.ssp := rfl
@[simp] theorem setIm_usp (m : Vector BankRef 16) : (s.setIm m).usp = s.usp := rfl
@[simp] theorem setIm_mmu (m : Vector BankRef 16) : (s.setIm m).mmu = s.mmu := rfl
@[simp] theorem setIm_im (m : Vector BankRef 16) : (s.setIm m).im = m := rfl
@[simp] theorem setIm_ram (m : Vector BankRef 16) : (s.setIm m).ram = s.ram := rfl
@[simp] theorem setIm_ramEpoch (m : Vector BankRef 16) : (s.setIm m).ramEpoch = s.ramEpoch := rfl
@[simp] theorem setIm_halted (m : Vector BankRef 16) : (s.setIm m).halted = s.halted := rfl
@[simp] theorem setIm_tick (m : Vector BankRef 16) : (s.setIm m).tick = s.tick := rfl
@[simp] theorem setIm_rtcTime (m : Vector BankRef 16) : (s.setIm m).rtcTime = s.rtcTime := rfl
@[simp] theorem setIm_inputs (m : Vector BankRef 16) : (s.setIm m).inputs = s.inputs := rfl
@[simp] theorem setIm_bus (m : Vector BankRef 16) : (s.setIm m).bus = s.bus := rfl
@[simp] theorem setIm_free (m : Vector BankRef 16) : (s.setIm m).free = s.free := rfl
@[simp] theorem setIm_cfg (m : Vector BankRef 16) : (s.setIm m).cfg = s.cfg := rfl
@[simp] theorem setIm_reg (m : Vector BankRef 16) (i : Reg) : (s.setIm m).reg i = s.reg i := rfl
@[simp] theorem setIm_mmuWord (m : Vector BankRef 16) (i : Fin 32) : (s.setIm m).mmuWord i = s.mmuWord i := rfl
@[simp] theorem setIm_sp (m : Vector BankRef 16) : (s.setIm m).sp = s.sp := rfl
@[simp] theorem setIm_ramByte (m : Vector BankRef 16) (a : Nat) : (s.setIm m).ramByte a = s.ramByte a := rfl
@[simp] theorem setIm_romByte (m : Vector BankRef 16) (a : Nat) : (s.setIm m).romByte a = s.romByte a := rfl

-- setRam

@[simp] theorem setRam_regs (m : Memory) : (s.setRam m).regs = s.regs := rfl
@[simp] theorem setRam_fl (m : Memory) : (s.setRam m).fl = s.fl := rfl
@[simp] theorem setRam_ps (m : Memory) : (s.setRam m).ps = s.ps := rfl
@[simp] theorem setRam_psClean (m : Memory) : (s.setRam m).psClean = s.psClean := rfl
@[simp] theorem setRam_pc (m : Memory) : (s.setRam m).pc = s.pc := rfl
@[simp] theorem setRam_ia (m : Memory) : (s.setRam m).ia = s.ia := rfl
@[simp] theorem setRam_ii (m : Memory) : (s.setRam m).ii = s.ii := rfl
@[simp] theorem setRam_p2 (m : Memory) : (s.setRam m).p2 = s.p2 := rfl
@[simp] theorem setRam_ssp (m : Memory) : (s.setRam m).ssp = s.ssp := rfl
@[simp] theorem setRam_usp (m : Memory) : (s.setRam m).usp = s.usp := rfl
@[simp] theorem setRam_mmu (m : Memory) : (s.setRam m).mmu = s.mmu := rfl
@[simp] theorem setRam_im (m : Memory) : (s.setRam m).im = s.im := rfl
@[simp] theorem setRam_ram (m : Memory) : (s.setRam m).ram = m := rfl
@[simp] theorem setRam_ramEpoch (m : Memory) : (s.setRam m).ramEpoch = s.ramEpoch := rfl
@[simp] theorem setRam_halted (m : Memory) : (s.setRam m).halted = s.halted := rfl
@[simp] theorem setRam_tick (m : Memory) : (s.setRam m).tick = s.tick := rfl
@[simp] theorem setRam_rtcTime (m : Memory) : (s.setRam m).rtcTime = s.rtcTime := rfl
@[simp] theorem setRam_inputs (m : Memory) : (s.setRam m).inputs = s.inputs := rfl
@[simp] theorem setRam_bus (m : Memory) : (s.setRam m).bus = s.bus := rfl
@[simp] theorem setRam_free (m : Memory) : (s.setRam m).free = s.free := rfl
@[simp] theorem setRam_cfg (m : Memory) : (s.setRam m).cfg = s.cfg := rfl
@[simp] theorem setRam_reg (m : Memory) (i : Reg) : (s.setRam m).reg i = s.reg i := rfl
@[simp] theorem setRam_mmuWord (m : Memory) (i : Fin 32) : (s.setRam m).mmuWord i = s.mmuWord i := rfl
@[simp] theorem setRam_bank (m : Memory) (i : Fin 16) : (s.setRam m).bank i = s.bank i := rfl
@[simp] theorem setRam_sp (m : Memory) : (s.setRam m).sp = s.sp := rfl
@[simp] theorem setRam_romByte (m : Memory) (a : Nat) : (s.setRam m).romByte a = s.romByte a := rfl

-- setHalted

@[simp] theorem setHalted_regs (b : Bool) : (s.setHalted b).regs = s.regs := rfl
@[simp] theorem setHalted_fl (b : Bool) : (s.setHalted b).fl = s.fl := rfl
@[simp] theorem setHalted_ps (b : Bool) : (s.setHalted b).ps = s.ps := rfl
@[simp] theorem setHalted_psClean (b : Bool) : (s.setHalted b).psClean = s.psClean := rfl
@[simp] theorem setHalted_pc (b : Bool) : (s.setHalted b).pc = s.pc := rfl
@[simp] theorem setHalted_ia (b : Bool) : (s.setHalted b).ia = s.ia := rfl
@[simp] theorem setHalted_ii (b : Bool) : (s.setHalted b).ii = s.ii := rfl
@[simp] theorem setHalted_p2 (b : Bool) : (s.setHalted b).p2 = s.p2 := rfl
@[simp] theorem setHalted_ssp (b : Bool) : (s.setHalted b).ssp = s.ssp := rfl
@[simp] theorem setHalted_usp (b : Bool) : (s.setHalted b).usp = s.usp := rfl
@[simp] theorem setHalted_mmu (b : Bool) : (s.setHalted b).mmu = s.mmu := rfl
@[simp] theorem setHalted_im (b : Bool) : (s.setHalted b).im = s.im := rfl
@[simp] theorem setHalted_ram (b : Bool) : (s.setHalted b).ram = s.ram := rfl
@[simp] theorem setHalted_ramEpoch (b : Bool) : (s.setHalted b).ramEpoch = s.ramEpoch := rfl
@[simp] theorem setHalted_halted (b : Bool) : (s.setHalted b).halted = b := rfl
@[simp] theorem setHalted_tick (b : Bool) : (s.setHalted b).tick = s.tick := rfl
@[simp] theorem setHalted_rtcTime (b : Bool) : (s.setHalted b).rtcTime = s.rtcTime := rfl
@[simp] theorem setHalted_inputs (b : Bool) : (s.setHalted b).inputs = s.inputs := rfl
@[simp] theorem setHalted_bus (b : Bool) : (s.setHalted b).bus = s.bus := rfl
@[simp] theorem setHalted_free (b : Bool) : (s.setHalted b).free = s.free := rfl
@[simp] theorem setHalted_cfg (b : Bool) : (s.setHalted b).cfg = s.cfg := rfl
@[simp] theorem setHalted_reg (b : Bool) (i : Reg) : (s.setHalted b).reg i = s.reg i := rfl
@[simp] theorem setHalted_mmuWord (b : Bool) (i : Fin 32) : (s.setHalted b).mmuWord i = s.mmuWord i := rfl
@[simp] theorem setHalted_bank (b : Bool) (i : Fin 16) : (s.setHalted b).bank i = s.bank i := rfl
@[simp] theorem setHalted_sp (b : Bool) : (s.setHalted b).sp = s.sp := rfl
@[simp] theorem setHalted_ramByte (b : Bool) (a : Nat) : (s.setHalted b).ramByte a = s.ramByte a := rfl
@[simp] theorem setHalted_romByte (b : Bool) (a : Nat) : (s.setHalted b).romByte a = s.romByte a := rfl

-- setTick

@[simp] theorem setTick_regs (t : Tick) : (s.setTick t).regs = s.regs := rfl
@[simp] theorem setTick_fl (t : Tick) : (s.setTick t).fl = s.fl := rfl
@[simp] theorem setTick_ps (t : Tick) : (s.setTick t).ps = s.ps := rfl
@[simp] theorem setTick_psClean (t : Tick) : (s.setTick t).psClean = s.psClean := rfl
@[simp] theorem setTick_pc (t : Tick) : (s.setTick t).pc = s.pc := rfl
@[simp] theorem setTick_ia (t : Tick) : (s.setTick t).ia = s.ia := rfl
@[simp] theorem setTick_ii (t : Tick) : (s.setTick t).ii = s.ii := rfl
@[simp] theorem setTick_p2 (t : Tick) : (s.setTick t).p2 = s.p2 := rfl
@[simp] theorem setTick_ssp (t : Tick) : (s.setTick t).ssp = s.ssp := rfl
@[simp] theorem setTick_usp (t : Tick) : (s.setTick t).usp = s.usp := rfl
@[simp] theorem setTick_mmu (t : Tick) : (s.setTick t).mmu = s.mmu := rfl
@[simp] theorem setTick_im (t : Tick) : (s.setTick t).im = s.im := rfl
@[simp] theorem setTick_ram (t : Tick) : (s.setTick t).ram = s.ram := rfl
@[simp] theorem setTick_ramEpoch (t : Tick) : (s.setTick t).ramEpoch = s.ramEpoch := rfl
@[simp] theorem setTick_halted (t : Tick) : (s.setTick t).halted = s.halted := rfl
@[simp] theorem setTick_tick (t : Tick) : (s.setTick t).tick = t := rfl
@[simp] theorem setTick_rtcTime (t : Tick) : (s.setTick t).rtcTime = s.rtcTime := rfl
@[simp] theorem setTick_inputs (t : Tick) : (s.setTick t).inputs = s.inputs := rfl
@[simp] theorem setTick_bus (t : Tick) : (s.setTick t).bus = s.bus := rfl
@[simp] theorem setTick_free (t : Tick) : (s.setTick t).free = s.free := rfl
@[simp] theorem setTick_cfg (t : Tick) : (s.setTick t).cfg = s.cfg := rfl
@[simp] theorem setTick_reg (t : Tick) (i : Reg) : (s.setTick t).reg i = s.reg i := rfl
@[simp] theorem setTick_mmuWord (t : Tick) (i : Fin 32) : (s.setTick t).mmuWord i = s.mmuWord i := rfl
@[simp] theorem setTick_bank (t : Tick) (i : Fin 16) : (s.setTick t).bank i = s.bank i := rfl
@[simp] theorem setTick_sp (t : Tick) : (s.setTick t).sp = s.sp := rfl
@[simp] theorem setTick_ramByte (t : Tick) (a : Nat) : (s.setTick t).ramByte a = s.ramByte a := rfl
@[simp] theorem setTick_romByte (t : Tick) (a : Nat) : (s.setTick t).romByte a = s.romByte a := rfl

-- setRtcTime

@[simp] theorem setRtcTime_regs (t : RtcTime) : (s.setRtcTime t).regs = s.regs := rfl
@[simp] theorem setRtcTime_fl (t : RtcTime) : (s.setRtcTime t).fl = s.fl := rfl
@[simp] theorem setRtcTime_ps (t : RtcTime) : (s.setRtcTime t).ps = s.ps := rfl
@[simp] theorem setRtcTime_psClean (t : RtcTime) : (s.setRtcTime t).psClean = s.psClean := rfl
@[simp] theorem setRtcTime_pc (t : RtcTime) : (s.setRtcTime t).pc = s.pc := rfl
@[simp] theorem setRtcTime_ia (t : RtcTime) : (s.setRtcTime t).ia = s.ia := rfl
@[simp] theorem setRtcTime_ii (t : RtcTime) : (s.setRtcTime t).ii = s.ii := rfl
@[simp] theorem setRtcTime_p2 (t : RtcTime) : (s.setRtcTime t).p2 = s.p2 := rfl
@[simp] theorem setRtcTime_ssp (t : RtcTime) : (s.setRtcTime t).ssp = s.ssp := rfl
@[simp] theorem setRtcTime_usp (t : RtcTime) : (s.setRtcTime t).usp = s.usp := rfl
@[simp] theorem setRtcTime_mmu (t : RtcTime) : (s.setRtcTime t).mmu = s.mmu := rfl
@[simp] theorem setRtcTime_im (t : RtcTime) : (s.setRtcTime t).im = s.im := rfl
@[simp] theorem setRtcTime_ram (t : RtcTime) : (s.setRtcTime t).ram = s.ram := rfl
@[simp] theorem setRtcTime_ramEpoch (t : RtcTime) : (s.setRtcTime t).ramEpoch = s.ramEpoch := rfl
@[simp] theorem setRtcTime_halted (t : RtcTime) : (s.setRtcTime t).halted = s.halted := rfl
@[simp] theorem setRtcTime_tick (t : RtcTime) : (s.setRtcTime t).tick = s.tick := rfl
@[simp] theorem setRtcTime_rtcTime (t : RtcTime) : (s.setRtcTime t).rtcTime = t := rfl
@[simp] theorem setRtcTime_inputs (t : RtcTime) : (s.setRtcTime t).inputs = s.inputs := rfl
@[simp] theorem setRtcTime_bus (t : RtcTime) : (s.setRtcTime t).bus = s.bus := rfl
@[simp] theorem setRtcTime_free (t : RtcTime) : (s.setRtcTime t).free = s.free := rfl
@[simp] theorem setRtcTime_cfg (t : RtcTime) : (s.setRtcTime t).cfg = s.cfg := rfl
@[simp] theorem setRtcTime_reg (t : RtcTime) (i : Reg) : (s.setRtcTime t).reg i = s.reg i := rfl
@[simp] theorem setRtcTime_mmuWord (t : RtcTime) (i : Fin 32) : (s.setRtcTime t).mmuWord i = s.mmuWord i := rfl
@[simp] theorem setRtcTime_bank (t : RtcTime) (i : Fin 16) : (s.setRtcTime t).bank i = s.bank i := rfl
@[simp] theorem setRtcTime_sp (t : RtcTime) : (s.setRtcTime t).sp = s.sp := rfl
@[simp] theorem setRtcTime_ramByte (t : RtcTime) (a : Nat) : (s.setRtcTime t).ramByte a = s.ramByte a := rfl
@[simp] theorem setRtcTime_romByte (t : RtcTime) (a : Nat) : (s.setRtcTime t).romByte a = s.romByte a := rfl

-- setInputs

@[simp] theorem setInputs_regs (l : List Signals) : (s.setInputs l).regs = s.regs := rfl
@[simp] theorem setInputs_fl (l : List Signals) : (s.setInputs l).fl = s.fl := rfl
@[simp] theorem setInputs_ps (l : List Signals) : (s.setInputs l).ps = s.ps := rfl
@[simp] theorem setInputs_psClean (l : List Signals) : (s.setInputs l).psClean = s.psClean := rfl
@[simp] theorem setInputs_pc (l : List Signals) : (s.setInputs l).pc = s.pc := rfl
@[simp] theorem setInputs_ia (l : List Signals) : (s.setInputs l).ia = s.ia := rfl
@[simp] theorem setInputs_ii (l : List Signals) : (s.setInputs l).ii = s.ii := rfl
@[simp] theorem setInputs_p2 (l : List Signals) : (s.setInputs l).p2 = s.p2 := rfl
@[simp] theorem setInputs_ssp (l : List Signals) : (s.setInputs l).ssp = s.ssp := rfl
@[simp] theorem setInputs_usp (l : List Signals) : (s.setInputs l).usp = s.usp := rfl
@[simp] theorem setInputs_mmu (l : List Signals) : (s.setInputs l).mmu = s.mmu := rfl
@[simp] theorem setInputs_im (l : List Signals) : (s.setInputs l).im = s.im := rfl
@[simp] theorem setInputs_ram (l : List Signals) : (s.setInputs l).ram = s.ram := rfl
@[simp] theorem setInputs_ramEpoch (l : List Signals) : (s.setInputs l).ramEpoch = s.ramEpoch := rfl
@[simp] theorem setInputs_halted (l : List Signals) : (s.setInputs l).halted = s.halted := rfl
@[simp] theorem setInputs_tick (l : List Signals) : (s.setInputs l).tick = s.tick := rfl
@[simp] theorem setInputs_rtcTime (l : List Signals) : (s.setInputs l).rtcTime = s.rtcTime := rfl
@[simp] theorem setInputs_inputs (l : List Signals) : (s.setInputs l).inputs = l := rfl
@[simp] theorem setInputs_bus (l : List Signals) : (s.setInputs l).bus = s.bus := rfl
@[simp] theorem setInputs_free (l : List Signals) : (s.setInputs l).free = s.free := rfl
@[simp] theorem setInputs_cfg (l : List Signals) : (s.setInputs l).cfg = s.cfg := rfl
@[simp] theorem setInputs_reg (l : List Signals) (i : Reg) : (s.setInputs l).reg i = s.reg i := rfl
@[simp] theorem setInputs_mmuWord (l : List Signals) (i : Fin 32) : (s.setInputs l).mmuWord i = s.mmuWord i := rfl
@[simp] theorem setInputs_bank (l : List Signals) (i : Fin 16) : (s.setInputs l).bank i = s.bank i := rfl
@[simp] theorem setInputs_sp (l : List Signals) : (s.setInputs l).sp = s.sp := rfl
@[simp] theorem setInputs_ramByte (l : List Signals) (a : Nat) : (s.setInputs l).ramByte a = s.ramByte a := rfl
@[simp] theorem setInputs_romByte (l : List Signals) (a : Nat) : (s.setInputs l).romByte a = s.romByte a := rfl

-- logBus

@[simp] theorem logBus_regs (e : BusEvent) : (s.logBus e).regs = s.regs := rfl
@[simp] theorem logBus_fl (e : BusEvent) : (s.logBus e).fl = s.fl := rfl
@[simp] theorem logBus_ps (e : BusEvent) : (s.logBus e).ps = s.ps := rfl
@[simp] theorem logBus_psClean (e : BusEvent) : (s.logBus e).psClean = s.psClean := rfl
@[simp] theorem logBus_pc (e : BusEvent) : (s.logBus e).pc = s.pc := rfl
@[simp] theorem logBus_ia (e : BusEvent) : (s.logBus e).ia = s.ia := rfl
@[simp] theorem logBus_ii (e : BusEvent) : (s.logBus e).ii = s.ii := rfl
@[simp] theorem logBus_p2 (e : BusEvent) : (s.logBus e).p2 = s.p2 := rfl
@[simp] theorem logBus_ssp (e : BusEvent) : (s.logBus e).ssp = s.ssp := rfl
@[simp] theorem logBus_usp (e : BusEvent) : (s.logBus e).usp = s.usp := rfl
@[simp] theorem logBus_mmu (e : BusEvent) : (s.logBus e).mmu = s.mmu := rfl
@[simp] theorem logBus_im (e : BusEvent) : (s.logBus e).im = s.im := rfl
@[simp] theorem logBus_ram (e : BusEvent) : (s.logBus e).ram = s.ram := rfl
@[simp] theorem logBus_ramEpoch (e : BusEvent) : (s.logBus e).ramEpoch = s.ramEpoch := rfl
@[simp] theorem logBus_halted (e : BusEvent) : (s.logBus e).halted = s.halted := rfl
@[simp] theorem logBus_tick (e : BusEvent) : (s.logBus e).tick = s.tick := rfl
@[simp] theorem logBus_rtcTime (e : BusEvent) : (s.logBus e).rtcTime = s.rtcTime := rfl
@[simp] theorem logBus_inputs (e : BusEvent) : (s.logBus e).inputs = s.inputs := rfl
@[simp] theorem logBus_bus (e : BusEvent) : (s.logBus e).bus = e :: s.bus := rfl
@[simp] theorem logBus_free (e : BusEvent) : (s.logBus e).free = s.free := rfl
@[simp] theorem logBus_cfg (e : BusEvent) : (s.logBus e).cfg = s.cfg := rfl
@[simp] theorem logBus_reg (e : BusEvent) (i : Reg) : (s.logBus e).reg i = s.reg i := rfl
@[simp] theorem logBus_mmuWord (e : BusEvent) (i : Fin 32) : (s.logBus e).mmuWord i = s.mmuWord i := rfl
@[simp] theorem logBus_bank (e : BusEvent) (i : Fin 16) : (s.logBus e).bank i = s.bank i := rfl
@[simp] theorem logBus_sp (e : BusEvent) : (s.logBus e).sp = s.sp := rfl
@[simp] theorem logBus_ramByte (e : BusEvent) (a : Nat) : (s.logBus e).ramByte a = s.ramByte a := rfl
@[simp] theorem logBus_romByte (e : BusEvent) (a : Nat) : (s.logBus e).romByte a = s.romByte a := rfl

-- draw

@[simp] theorem draw_regs : (s.draw).regs = s.regs := rfl
@[simp] theorem draw_fl : (s.draw).fl = s.fl := rfl
@[simp] theorem draw_ps : (s.draw).ps = s.ps := rfl
@[simp] theorem draw_psClean : (s.draw).psClean = s.psClean := rfl
@[simp] theorem draw_pc : (s.draw).pc = s.pc := rfl
@[simp] theorem draw_ia : (s.draw).ia = s.ia := rfl
@[simp] theorem draw_ii : (s.draw).ii = s.ii := rfl
@[simp] theorem draw_p2 : (s.draw).p2 = s.p2 := rfl
@[simp] theorem draw_ssp : (s.draw).ssp = s.ssp := rfl
@[simp] theorem draw_usp : (s.draw).usp = s.usp := rfl
@[simp] theorem draw_mmu : (s.draw).mmu = s.mmu := rfl
@[simp] theorem draw_im : (s.draw).im = s.im := rfl
@[simp] theorem draw_ram : (s.draw).ram = s.ram := rfl
@[simp] theorem draw_ramEpoch : (s.draw).ramEpoch = s.ramEpoch := rfl
@[simp] theorem draw_halted : (s.draw).halted = s.halted := rfl
@[simp] theorem draw_tick : (s.draw).tick = s.tick := rfl
@[simp] theorem draw_rtcTime : (s.draw).rtcTime = s.rtcTime := rfl
@[simp] theorem draw_inputs : (s.draw).inputs = s.inputs := rfl
@[simp] theorem draw_bus : (s.draw).bus = s.bus := rfl
@[simp] theorem draw_free : (s.draw).free = s.free + 1 := rfl
@[simp] theorem draw_cfg : (s.draw).cfg = s.cfg := rfl
@[simp] theorem draw_reg (i : Reg) : (s.draw).reg i = s.reg i := rfl
@[simp] theorem draw_mmuWord (i : Fin 32) : (s.draw).mmuWord i = s.mmuWord i := rfl
@[simp] theorem draw_bank (i : Fin 16) : (s.draw).bank i = s.bank i := rfl
@[simp] theorem draw_sp : (s.draw).sp = s.sp := rfl
@[simp] theorem draw_ramByte (a : Nat) : (s.draw).ramByte a = s.ramByte a := rfl
@[simp] theorem draw_romByte (a : Nat) : (s.draw).romByte a = s.romByte a := rfl

-- setSp

@[simp] theorem setSp_regs (v : Word) : (s.setSp v).regs = s.regs := by unfold State.setSp; split <;> rfl
@[simp] theorem setSp_fl (v : Word) : (s.setSp v).fl = s.fl := by unfold State.setSp; split <;> rfl
@[simp] theorem setSp_ps (v : Word) : (s.setSp v).ps = s.ps := by unfold State.setSp; split <;> rfl
@[simp] theorem setSp_psClean (v : Word) : (s.setSp v).psClean = s.psClean := by unfold State.setSp; split <;> rfl
@[simp] theorem setSp_pc (v : Word) : (s.setSp v).pc = s.pc := by unfold State.setSp; split <;> rfl
@[simp] theorem setSp_ia (v : Word) : (s.setSp v).ia = s.ia := by unfold State.setSp; split <;> rfl
@[simp] theorem setSp_ii (v : Word) : (s.setSp v).ii = s.ii := by unfold State.setSp; split <;> rfl
@[simp] theorem setSp_p2 (v : Word) : (s.setSp v).p2 = s.p2 := by unfold State.setSp; split <;> rfl
@[simp] theorem setSp_mmu (v : Word) : (s.setSp v).mmu = s.mmu := by unfold State.setSp; split <;> rfl
@[simp] theorem setSp_im (v : Word) : (s.setSp v).im = s.im := by unfold State.setSp; split <;> rfl
@[simp] theorem setSp_ram (v : Word) : (s.setSp v).ram = s.ram := by unfold State.setSp; split <;> rfl
@[simp] theorem setSp_ramEpoch (v : Word) : (s.setSp v).ramEpoch = s.ramEpoch := by unfold State.setSp; split <;> rfl
@[simp] theorem setSp_halted (v : Word) : (s.setSp v).halted = s.halted := by unfold State.setSp; split <;> rfl
@[simp] theorem setSp_tick (v : Word) : (s.setSp v).tick = s.tick := by unfold State.setSp; split <;> rfl
@[simp] theorem setSp_rtcTime (v : Word) : (s.setSp v).rtcTime = s.rtcTime := by unfold State.setSp; split <;> rfl
@[simp] theorem setSp_inputs (v : Word) : (s.setSp v).inputs = s.inputs := by unfold State.setSp; split <;> rfl
@[simp] theorem setSp_bus (v : Word) : (s.setSp v).bus = s.bus := by unfold State.setSp; split <;> rfl
@[simp] theorem setSp_free (v : Word) : (s.setSp v).free = s.free := by unfold State.setSp; split <;> rfl
@[simp] theorem setSp_cfg (v : Word) : (s.setSp v).cfg = s.cfg := by unfold State.setSp; split <;> rfl
@[simp] theorem setSp_reg (v : Word) (i : Reg) : (s.setSp v).reg i = s.reg i := by unfold State.setSp; split <;> rfl
@[simp] theorem setSp_mmuWord (v : Word) (i : Fin 32) : (s.setSp v).mmuWord i = s.mmuWord i := by unfold State.setSp; split <;> rfl
@[simp] theorem setSp_bank (v : Word) (i : Fin 16) : (s.setSp v).bank i = s.bank i := by unfold State.setSp; split <;> rfl
@[simp] theorem setSp_ramByte (v : Word) (a : Nat) : (s.setSp v).ramByte a = s.ramByte a := by unfold State.setSp; split <;> rfl
@[simp] theorem setSp_romByte (v : Word) (a : Nat) : (s.setSp v).romByte a = s.romByte a := by unfold State.setSp; split <;> rfl

@[simp] theorem setSp_ssp (v : Word) : (s.setSp v).ssp = if s.ps.S then v else s.ssp := by
  unfold State.setSp; split <;> rfl

@[simp] theorem setSp_usp (v : Word) : (s.setSp v).usp = if s.ps.S then s.usp else v := by
  unfold State.setSp; split <;> rfl

@[simp] theorem setSp_sp (v : Word) : (s.setSp v).sp = v := by
  unfold State.sp; simp only [setSp_ps, setSp_ssp, setSp_usp]; split <;> rfl

-- A read after a write of the same kind.

theorem setReg_reg (r i : Reg) (v : Word) : (s.setReg r v).reg i = if i = r then v else s.reg i := by
  unfold State.reg State.setReg
  simp only [Vector.get_eq_getElem, Vector.getElem_set, Fin.ext_iff, eq_comm]

@[simp] theorem setReg_reg_self (r : Reg) (v : Word) : (s.setReg r v).reg r = v := by simp [setReg_reg]

@[simp] theorem setReg_reg_of_ne {r i : Reg} (v : Word) (h : i ≠ r) : (s.setReg r v).reg i = s.reg i := by
  simp [setReg_reg, h]

theorem setMmu_mmuWord (k i : Fin 32) (v : Word) : (s.setMmu k v).mmuWord i = if i = k then v else s.mmuWord i := by
  unfold State.mmuWord State.setMmu
  simp only [Vector.get_eq_getElem, Vector.getElem_set, Fin.ext_iff, eq_comm]

@[simp] theorem setMmu_mmuWord_self (k : Fin 32) (v : Word) : (s.setMmu k v).mmuWord k = v := by simp [setMmu_mmuWord]

theorem setBank_bank (k i : Fin 16) (b : BankRef) : (s.setBank k b).bank i = if i = k then b else s.bank i := by
  unfold State.bank State.setBank
  simp only [Vector.get_eq_getElem, Vector.getElem_set, Fin.ext_iff, eq_comm]

/-- States that agree on the registers one by one agree on them all. -/
theorem regs_ext {s t : State} (h : ∀ r, t.reg r = s.reg r) : t.regs = s.regs := by
  apply Vector.ext
  intro i hi
  exact h ⟨i, hi⟩

end Sys2Proof.Machine
end

