-- ==== Sys2Proof/Laws/Environment.lean ====
section
/-! SUPPORT. What a step boundary can do, and the runs under an environment. -/

namespace Sys2Proof.Machine

@[simp] theorem signalled_setInputs (g : Signals) (s : State) (l : List Signals) (c : Cause) :
    signalled g (s.setInputs l) c = signalled g s c := rfl
@[simp] theorem unmasked_setInputs (s : State) (l : List Signals) (c : Cause) :
    unmasked (s.setInputs l) c = unmasked s c := rfl
@[simp] theorem eligible_setInputs (g : Signals) (s : State) (l : List Signals) :
    eligible g (s.setInputs l) = eligible g s := rfl
@[simp] theorem pickEvent_setInputs (g : Signals) (s : State) (l : List Signals) :
    pickEvent g (s.setInputs l) = pickEvent g s := rfl

/-- An event may be taken exactly where it is signalled and not masked. -/
theorem mem_eligible {g : Signals} {s : State} {c : Cause} :
    c ∈ eligible g s ↔ signalled g s c = true ∧ unmasked s c = true := by
  cases c <;> simp [eligible, asyncCauses, signalled]

/-- What is picked may be taken. -/
theorem pickEvent_mem {g : Signals} {s : State} {c : Cause} (h : pickEvent g s = some c) : c ∈ eligible g s :=
  List.mem_of_getElem? h

/-- Some event is picked where one may be taken. -/
theorem pickEvent_of_mem {g : Signals} {s : State} {c : Cause} (h : c ∈ eligible g s) : ∃ d, pickEvent g s = some d :=
  ⟨_, List.getElem?_eq_getElem (Nat.mod_lt _ (List.length_pos_of_mem h))⟩

/-- Everything a step at a boundary can do (00_scope.md R11). -/
theorem stepWith_eq (g : Signals) (s : State) :
    stepWith g s =
      if g.reset then .next (performReset (s.setInputs []))
      else match pickEvent g s with
        | some c => .next (takeEvent c g (s.setInputs []))
        | none => runInstr (s.setInputs []) := rfl

theorem stepWith_taken {g : Signals} {s : State} {c : Cause} (hr : g.reset = false) (h : pickEvent g s = some c) :
    stepWith g s = .next (takeEvent c g (s.setInputs [])) := by simp [stepWith_eq, hr, h]

@[simp] theorem runUnder_zero (env : Environment) (s : State) : runUnder env s 0 = .next s := rfl

theorem runUnder_succ {env : Environment} {s t : State} {n : Nat} (h : runUnder env s n = .next t) :
    runUnder env s (n + 1) = stepWith (env n) t := by simp [runUnder, h]

/-- An event taken at boundary `n` is the step from there. -/
theorem TakenAt.next {env : Environment} {s : State} {c : Cause} {n : Nat} (h : TakenAt env s c n) :
    ∃ t, runUnder env s n = .next t ∧ runUnder env s (n + 1) = .next (takeEvent c (env n) (t.setInputs [])) := by
  obtain ⟨t, ht, hr, hc⟩ := h
  exact ⟨t, ht, (runUnder_succ ht).trans (stepWith_taken hr hc)⟩

end Sys2Proof.Machine
end

