-- ==== Sys2Proof/Laws/Memory.lean ====
section
/-! SUPPORT. The laws of memory as a list: every operation keeps the canonical form, and what a byte reads after a write. -/

namespace Sys2Proof.Machine

/-- Addresses strictly rising. -/
abbrev Memory.rising (m : Memory) : Prop := m.Pairwise (fun c d => c.1 < d.1)

theorem Memory.mem_put {m : Memory} {a : Nat} {b : Byte} {c : Host.Cell} (h : c ∈ m.put a b) : c = (a, b) ∨ c ∈ m := by
  induction m with
  | nil => simpa [Memory.put] using h
  | cons d m ih =>
    obtain ⟨k, x⟩ := d
    simp only [Memory.put] at h
    split at h
    · simpa using h
    · split at h
      · rcases List.mem_cons.1 h with h | h
        · exact .inl h
        · exact .inr (List.mem_cons_of_mem _ h)
      · rcases List.mem_cons.1 h with h | h
        · exact .inr (by simp [h])
        · exact (ih h).imp_right (List.mem_cons_of_mem _)

theorem Memory.mem_erase {m : Memory} {a : Nat} {c : Host.Cell} (h : c ∈ m.erase a) : c ∈ m := by
  induction m with
  | nil => simp [Memory.erase] at h
  | cons d m ih =>
    obtain ⟨k, x⟩ := d
    simp only [Memory.erase] at h
    split at h
    · exact List.mem_cons_of_mem _ h
    · rcases List.mem_cons.1 h with h | h
      · simp [h]
      · exact List.mem_cons_of_mem _ (ih h)

theorem Memory.put_rising {m : Memory} (a : Nat) (b : Byte) (h : m.rising) : Memory.rising (m.put a b) := by
  induction m with
  | nil => simp [Memory.put]
  | cons d m ih =>
    obtain ⟨k, x⟩ := d
    obtain ⟨hd, ht⟩ := List.pairwise_cons.1 h
    simp only [Memory.put]
    split
    · refine List.pairwise_cons.2 ⟨?_, h⟩
      intro e he
      rcases List.mem_cons.1 he with rfl | he
      · assumption
      · exact lt_trans (by assumption) (hd e he)
    · split
      · rename_i _ hk
        subst hk
        exact List.pairwise_cons.2 ⟨fun e he => hd e he, ht⟩
      · refine List.pairwise_cons.2 ⟨?_, ih ht⟩
        intro e he
        rcases Memory.mem_put he with rfl | he
        · simp only; omega
        · exact hd e he

theorem Memory.erase_rising {m : Memory} (a : Nat) (h : m.rising) : Memory.rising (m.erase a) := by
  induction m with
  | nil => simp [Memory.erase]
  | cons d m ih =>
    obtain ⟨k, x⟩ := d
    obtain ⟨hd, ht⟩ := List.pairwise_cons.1 h
    simp only [Memory.erase]
    split
    · exact ht
    · exact List.pairwise_cons.2 ⟨fun e he => hd e (Memory.mem_erase he), ih ht⟩

/-- A write keeps the canonical form. -/
theorem Memory.write_wf {dflt : Option Byte} {m : Memory} (a : Nat) (b : Byte) (h : m.wf dflt) :
    Memory.wf dflt (m.write dflt a b) := by
  unfold Memory.write
  split
  · exact ⟨Memory.erase_rising a h.1, fun c hc => h.2 c (Memory.mem_erase hc)⟩
  · refine ⟨Memory.put_rising a b h.1, fun c hc => ?_⟩
    rcases Memory.mem_put hc with rfl | hc
    · assumption
    · exact h.2 c hc

/-- The cells of a written memory are the written one and old ones. -/
theorem Memory.mem_write {dflt : Option Byte} {m : Memory} {a : Nat} {b : Byte} {c : Host.Cell}
    (h : c ∈ m.write dflt a b) : c = (a, b) ∨ c ∈ m := by
  unfold Memory.write at h
  split at h
  · exact .inr (Memory.mem_erase h)
  · exact Memory.mem_put h

/-- A read after a put at the same address. -/
@[simp] theorem Memory.read_put_self (m : Memory) (a : Nat) (b : Byte) : (m.put a b).read a = some b := by
  induction m with
  | nil => simp [Memory.put, Memory.read]
  | cons d m ih =>
    obtain ⟨k, x⟩ := d
    simp only [Memory.put]
    split
    · simp [Memory.read]
    · split
      · simp [Memory.read]
      · rename_i h1 h2
        simp [Memory.read, Ne.symm h2, ih]

/-- A read after a put at another address. -/
theorem Memory.read_put_of_ne (m : Memory) {a c : Nat} (b : Byte) (h : c ≠ a) : (m.put a b).read c = m.read c := by
  induction m with
  | nil => simp [Memory.put, Memory.read, Ne.symm h]
  | cons d m ih =>
    obtain ⟨k, x⟩ := d
    simp only [Memory.put]
    split
    · simp [Memory.read, Ne.symm h]
    · split
      · rename_i _ hk
        subst hk
        simp [Memory.read, Ne.symm h]
      · simp [Memory.read, ih]

/-- Internal RAM never erases: no byte is equal to "no value". -/
theorem Memory.write_ramDefault (m : Memory) (a : Nat) (b : Byte) : m.write ramDefault a b = m.put a b := by
  simp [Memory.write]

-- The machine's RAM.

/-- A byte of RAM after a write of a byte. -/
theorem ramByte_setRam_write (s : State) (a c : Nat) (b : Byte) :
    (s.setRam (s.ram.write ramDefault a b)).ramByte c = if c = a then b else s.ramByte c := by
  unfold State.ramByte
  rw [Memory.write_ramDefault]
  by_cases h : c = a
  · subst h; simp [State.setRam]
  · simp [State.setRam, Memory.read_put_of_ne _ _ h, h]

/-- Memory after reset is in canonical form. -/
theorem reset_ram_wf : Memory.wf ramDefault State.reset.ram := by
  simp [State.reset, Memory.wf]

/-- ROM after reset is in canonical form. -/
theorem reset_rom_wf : Memory.wf romDefault State.reset.cfg.rom := by
  simp [State.reset, Params.testVectors, Memory.wf]

end Sys2Proof.Machine
end

