-- ==== Sys2Proof/Laws/Ops.lean ====
section
/-! SUPPORT. For each shared operation, once, everything it can do: what it changes where it succeeds, and that it changes
nothing where it raises. -/

namespace Sys2Proof.Machine

-- What an operation may change.

/-- Only the bus history and the draw counter have changed: the frame of a read. -/
structure OnlyBus (s t : State) : Prop where
  eq   : t = { s with bus := t.bus, free := t.free }
  free : s.free ≤ t.free

/-- Only RAM, accessed bits, the bus history and the draw counter have changed: the frame of a store. -/
structure OnlyStore (s t : State) : Prop where
  eq    : t = { s with ram := t.ram, mmu := t.mmu, bus := t.bus, free := t.free }
  free  : s.free ≤ t.free
  wf    : Memory.wf ramDefault s.ram → Memory.wf ramDefault t.ram
  range : ∀ c ∈ t.ram, c ∈ s.ram ∨ c.1 < s.cfg.nram * 4096
  mmu   : ∀ k, t.mmuWord k = s.mmuWord k ∨ t.mmuWord k = s.mmuWord k ||| 0x0800
  off   : s.ps.M = false → t.mmu = s.mmu

theorem OnlyBus.refl (s : State) : OnlyBus s s := ⟨rfl, le_refl _⟩

theorem OnlyBus.trans {s t u : State} (h : OnlyBus s t) (g : OnlyBus t u) : OnlyBus s u := by
  refine ⟨?_, h.free.trans g.free⟩
  have := g.eq
  rw [h.eq] at this
  exact this

theorem OnlyBus.store {s t : State} (h : OnlyBus s t) : OnlyStore s t where
  eq    := by rw [h.eq]
  free  := h.free
  wf    := by rw [h.eq]; exact id
  range := by rw [h.eq]; exact fun c hc => .inl hc
  mmu   := by intro k; left; rw [h.eq]; rfl
  off   := by rw [h.eq]; exact fun _ => rfl

theorem or_or_self (w v : Word) : w ||| v ||| v = w ||| v := by rw [BitVec.or_assoc, BitVec.or_self]

theorem OnlyStore.refl (s : State) : OnlyStore s s := (OnlyBus.refl s).store

theorem OnlyStore.cfg {s t : State} (h : OnlyStore s t) : t.cfg = s.cfg := (congrArg State.cfg h.eq :)
theorem OnlyStore.regs {s t : State} (h : OnlyStore s t) : t.regs = s.regs := (congrArg State.regs h.eq :)
theorem OnlyStore.reg {s t : State} (h : OnlyStore s t) (r : Reg) : t.reg r = s.reg r := by
  unfold State.reg; rw [h.regs]
theorem OnlyStore.fl {s t : State} (h : OnlyStore s t) : t.fl = s.fl := (congrArg State.fl h.eq :)
theorem OnlyStore.ps {s t : State} (h : OnlyStore s t) : t.ps = s.ps := (congrArg State.ps h.eq :)
theorem OnlyStore.psClean {s t : State} (h : OnlyStore s t) : t.psClean = s.psClean := (congrArg State.psClean h.eq :)
theorem OnlyStore.pc {s t : State} (h : OnlyStore s t) : t.pc = s.pc := (congrArg State.pc h.eq :)
theorem OnlyStore.ia {s t : State} (h : OnlyStore s t) : t.ia = s.ia := (congrArg State.ia h.eq :)
theorem OnlyStore.ii {s t : State} (h : OnlyStore s t) : t.ii = s.ii := (congrArg State.ii h.eq :)
theorem OnlyStore.p2 {s t : State} (h : OnlyStore s t) : t.p2 = s.p2 := (congrArg State.p2 h.eq :)
theorem OnlyStore.ssp {s t : State} (h : OnlyStore s t) : t.ssp = s.ssp := (congrArg State.ssp h.eq :)
theorem OnlyStore.usp {s t : State} (h : OnlyStore s t) : t.usp = s.usp := (congrArg State.usp h.eq :)
theorem OnlyStore.sp {s t : State} (h : OnlyStore s t) : t.sp = s.sp := by
  unfold State.sp; rw [h.ps, h.ssp, h.usp]
theorem OnlyStore.im {s t : State} (h : OnlyStore s t) : t.im = s.im := (congrArg State.im h.eq :)
theorem OnlyStore.bank {s t : State} (h : OnlyStore s t) (k : Fin 16) : t.bank k = s.bank k := by
  unfold State.bank; rw [h.im]
theorem OnlyStore.ramEpoch {s t : State} (h : OnlyStore s t) : t.ramEpoch = s.ramEpoch := (congrArg State.ramEpoch h.eq :)
theorem OnlyStore.halted {s t : State} (h : OnlyStore s t) : t.halted = s.halted := (congrArg State.halted h.eq :)
theorem OnlyStore.tick {s t : State} (h : OnlyStore s t) : t.tick = s.tick := (congrArg State.tick h.eq :)
theorem OnlyStore.rtcTime {s t : State} (h : OnlyStore s t) : t.rtcTime = s.rtcTime := (congrArg State.rtcTime h.eq :)
theorem OnlyStore.inputs {s t : State} (h : OnlyStore s t) : t.inputs = s.inputs := (congrArg State.inputs h.eq :)
theorem OnlyStore.romByte {s t : State} (h : OnlyStore s t) (a : Nat) : t.romByte a = s.romByte a := by
  unfold State.romByte; rw [h.cfg]

theorem OnlyBus.mmuEq {s t : State} (h : OnlyBus s t) : t.mmu = s.mmu := (congrArg State.mmu h.eq :)
theorem OnlyBus.ram {s t : State} (h : OnlyBus s t) : t.ram = s.ram := (congrArg State.ram h.eq :)
theorem OnlyBus.mmuWord {s t : State} (h : OnlyBus s t) (k : Fin 32) : t.mmuWord k = s.mmuWord k := by
  unfold State.mmuWord; rw [h.mmuEq]
theorem OnlyBus.ramByte {s t : State} (h : OnlyBus s t) (a : Nat) : t.ramByte a = s.ramByte a := by
  unfold State.ramByte; rw [h.ram, h.store.ramEpoch]

theorem OnlyStore.trans {s t u : State} (h : OnlyStore s t) (g : OnlyStore t u) : OnlyStore s u where
  eq := by
    have := g.eq
    rw [h.eq] at this
    exact this
  free := h.free.trans g.free
  wf := fun w => g.wf (h.wf w)
  range := by
    intro c hc
    rcases g.range c hc with hc | hc
    · exact h.range c hc
    · rw [h.cfg] at hc; exact .inr hc
  mmu := by
    intro k
    rcases h.mmu k with h1 | h1 <;> rcases g.mmu k with g1 | g1 <;> rw [g1, h1]
    · exact .inl rfl
    · exact .inr rfl
    · exact .inr rfl
    · exact .inr (or_or_self _ _)
  off := fun m => (g.off (by rw [h.ps]; exact m)).trans (h.off m)

-- Results.

@[simp] theorem Res.bind_ok {α β : Type} (a : α) (s : State) (f : α → State → Res β) : (Res.ok a s).bind f = f a s := rfl
@[simp] theorem Res.bind_raise {α β : Type} (c : Cause) (s : State) (f : α → State → Res β) :
    (Res.raise c s).bind f = .raise c s := rfl

theorem Res.bind_eq_ok {α β : Type} {r : Res α} {f : α → State → Res β} {b : β} {u : State} :
    r.bind f = .ok b u ↔ ∃ a t, r = .ok a t ∧ f a t = .ok b u := by
  cases r <;> simp [Res.bind]

theorem Res.bind_eq_raise {α β : Type} {r : Res α} {f : α → State → Res β} {c : Cause} {u : State} :
    r.bind f = .raise c u ↔ r = .raise c u ∨ ∃ a t, r = .ok a t ∧ f a t = .raise c u := by
  cases r <;> simp [Res.bind]

@[simp] theorem finish_ok (s t : State) (a : Unit) : finish s (.ok a t) = .next t := rfl
@[simp] theorem finish_raise (s t : State) (c : Cause) :
    finish s (.raise c t) = .next (takeInterrupt c (returnPc c s) t) := rfl

/-- An instruction that runs to an operation's result always has a next state. -/
theorem finish_next (s : State) (r : Res Unit) : ∃ t, finish s r = .next t := by
  cases r <;> exact ⟨_, rfl⟩

theorem requirePriv_of_S {s : State} (h : s.ps.S = true) (k : Res Unit) : requirePriv s k = k := by
  simp [requirePriv, h]

theorem requirePriv_of_not_S {s : State} (h : s.ps.S = false) (k : Res Unit) :
    requirePriv s k = .raise .unprivOpcode s := by
  simp [requirePriv, h]

-- Translation.

/-- Translation depends on the status, the MMU words, the bank map and the parameters only. -/
theorem translate_congr {s t : State} (hp : t.ps = s.ps) (hm : t.mmu = s.mmu) (hi : t.im = s.im) (hc : t.cfg = s.cfg)
    (a : Word) (k : Access) : translate t a k = translate s a k := by
  unfold translate State.mmuWord State.bank
  rw [hp, hm, hi, hc]

theorem OnlyBus.translate {s t : State} (h : OnlyBus s t) (a : Word) (k : Access) :
    Machine.translate t a k = Machine.translate s a k :=
  translate_congr h.store.ps h.mmuEq h.store.im h.store.cfg a k

/-- The accessed bit is no field that translation reads. -/
theorem accessed_fields (w : Word) : (w ||| 0x0800).getLsbD 15 = w.getLsbD 15 ∧ (w ||| 0x0800).getLsbD 14 = w.getLsbD 14 ∧
    (w ||| 0x0800).getLsbD 13 = w.getLsbD 13 ∧ (w ||| 0x0800).getLsbD 12 = w.getLsbD 12 ∧
    (w ||| 0x0800).extractLsb' 0 4 = w.extractLsb' 0 4 := by
  refine ⟨by simp, by simp, by simp, by simp, ?_⟩
  ext i hi
  have : i = 0 ∨ i = 1 ∨ i = 2 ∨ i = 3 := by omega
  rcases this with rfl | rfl | rfl | rfl <;> simp

/-- Translation with the same low words and the same high words up to their accessed bits. -/
theorem translate_congr_accessed {s t : State} (hp : t.ps = s.ps) (hi : t.im = s.im) (hc : t.cfg = s.cfg)
    (hl : ∀ k, t.mmuWord (mmuLow k) = s.mmuWord (mmuLow k))
    (hh : ∀ k, t.mmuWord (mmuHigh k) = s.mmuWord (mmuHigh k) ∨
      t.mmuWord (mmuHigh k) = s.mmuWord (mmuHigh k) ||| 0x0800) (a : Word) (k : Access) :
    translate t a k = translate s a k := by
  unfold translate State.bank
  rw [hp, hi, hc, hl]
  rcases hh (bankOf a) with h | h <;> rw [h]
  obtain ⟨h15, h14, h13, h12, hb⟩ := accessed_fields (s.mmuWord (mmuHigh (bankOf a)))
  simp only [h15, h14, h13, h12, hb]

theorem internalLoc_ram {cfg : Params} {b : BankRef} {o : BitVec 12} {n : Nat} (h : internalLoc cfg b o = .ram n) :
    n < cfg.nram * 4096 := by
  unfold internalLoc at h
  cases hk : b.kind <;> simp only [hk] at h
  · split at h
    · rename_i hb
      cases h
      have := o.isLt
      unfold Params.nram at *
      omega
    · cases h
  · split at h <;> cases h

/-- A translated RAM byte is a byte of RAM the chip has. -/
theorem translate_ram {s : State} {a : Word} {k : Access} {n : Nat} (h : translate s a k = .ok (.ram n)) :
    n < s.cfg.nram * 4096 := by
  unfold translate at h
  dsimp only at h
  split at h
  · injection h with h; exact internalLoc_ram h
  · split at h
    · cases h
    · split at h
      · cases h
      · injection h with h
        unfold deviceLoc at h
        split at h
        · split at h
          · exact internalLoc_ram h
          · cases h
        · cases h

theorem mmuLow_val (a : Word) (i : Fin 32) (h : i.val = 2 * (a.toNat / 4096)) : mmuLow (bankOf a) = i := by
  apply Fin.ext; simp only [mmuLow, bankOf_val, h]
theorem mmuHigh_val (a : Word) (i : Fin 32) (h : i.val = 2 * (a.toNat / 4096) + 1) : mmuHigh (bankOf a) = i := by
  apply Fin.ext; simp only [mmuHigh, bankOf_val, h]

/-- A byte lies at the same offset in its bank as its logical address (R73). -/
theorem translate_ram_offset {s : State} {a : Word} {k : Access} {p : Nat} (h : translate s a k = .ok (.ram p)) :
    p % 4096 = a.toNat % 4096 := by
  have key : ∀ b, internalLoc s.cfg b (offsetOf a) = .ram p → p % 4096 = a.toNat % 4096 := by
    intro b hb
    unfold internalLoc at hb
    have := offsetOf_toNat a
    cases hk : b.kind <;> simp only [hk] at hb <;> split at hb <;> cases hb
    omega
  unfold Machine.translate at h
  dsimp only at h
  split at h
  · injection h with h; exact key _ h
  split at h
  · cases h
  split at h
  · cases h
  injection h with h
  unfold deviceLoc at h
  split at h
  · split at h
    · exact key _ h
    · cases h
  · cases h

/-- The two bytes of a word never share a byte of RAM. -/
theorem translate_ram_ne {s : State} {a : Word} {k k' : Access} {p q : Nat} (h : translate s a k = .ok (.ram p))
    (g : translate s (a + 1) k' = .ok (.ram q)) : p ≠ q := by
  have h1 := translate_ram_offset h
  have h2 := translate_ram_offset g
  intro e
  subst e
  have : (a + 1).toNat = (a.toNat + 1) % 65536 := by simp [BitVec.toNat_add]
  omega

/-- Where a write passes the checks a read does too. -/
theorem translate_read_of_write {s : State} {a : Word} {l : Loc} (h : translate s a .write = .ok l) :
    translate s a .read = .ok l := by
  simp only [Machine.translate] at h ⊢
  by_cases hm : s.ps.M = false
  · rw [if_pos hm] at h ⊢; exact h
  · rw [if_neg hm] at h ⊢
    by_cases hp : (s.mmuWord (mmuHigh (bankOf a))).getLsbD 12 = true
    · rw [if_pos hp] at h; cases h
    · rw [if_neg hp] at h ⊢
      split at h
      · cases h
      · rename_i hn
        rw [if_neg]
        · exact h
        · intro hc
          apply hn
          simp only [reduceCtorEq, decide_false, Bool.false_and, Bool.or_false] at hc
          simp only [hc, Bool.true_or]

/-- While PS.M = 0 nothing faults (R88). -/
theorem translate_of_not_M {s : State} (h : s.ps.M = false) (a : Word) (k : Access) :
    translate s a k = .ok (internalLoc s.cfg (s.bank (bankOf a)) (offsetOf a)) := by
  simp [translate, h]

theorem translatePair_of_not_M {s : State} (h : s.ps.M = false) (a : Word) (k : Access) :
    ∃ p, translatePair s a k = .ok p := by
  simp [translatePair, translate_of_not_M h]

/-- A fault of translation is a bank fault (R73, R365). -/
theorem translate_error {s : State} {a : Word} {k : Access} {c : Cause} (h : translate s a k = .error c) :
    s.ps.M = true ∧ ∃ u w e, c = .bankFault a u w e := by
  unfold translate at h
  dsimp only at h
  split at h
  · cases h
  · rename_i hm
    refine ⟨by simpa using hm, ?_⟩
    split at h
    · cases h; exact ⟨_, _, _, rfl⟩
    · split at h
      · cases h; exact ⟨_, _, _, rfl⟩
      · cases h

-- One byte.

theorem physRead_frame (p : Loc) (s : State) : OnlyBus s (physRead p s).2 := by
  cases p <;> simp only [physRead]
  · exact OnlyBus.refl s
  · exact OnlyBus.refl s
  · exact ⟨rfl, Nat.le_succ _⟩
  · exact ⟨rfl, Nat.le_succ _⟩

@[simp] theorem physRead_ram (a : Nat) (s : State) : physRead (.ram a) s = (s.ramByte a, s) := rfl
@[simp] theorem physRead_rom (a : Nat) (s : State) : physRead (.rom a) s = (s.romByte a, s) := rfl

theorem physWrite_frame {p : Loc} {s : State} (hp : ∀ n, p = .ram n → n < s.cfg.nram * 4096) (b : Byte) :
    OnlyStore s (physWrite p b s) := by
  cases p with
  | ram a =>
    refine ⟨rfl, le_refl _, fun w => Memory.write_wf _ _ w, ?_, fun k => .inl rfl, fun _ => rfl⟩
    intro c hc
    rcases Memory.mem_write (show c ∈ s.ram.write ramDefault a b from hc) with rfl | hc
    · exact .inr (hp a rfl)
    · exact .inl hc
  | rom a => exact OnlyStore.refl s
  | device d k o => exact ⟨rfl, le_refl _, id, fun c hc => .inl hc, fun k => .inl rfl, fun _ => rfl⟩
  | absent => exact OnlyStore.refl s

/-- What a byte of RAM reads after a physical write. -/
theorem physWrite_ramByte (p : Loc) (b : Byte) (s : State) (c : Nat) :
    (physWrite p b s).ramByte c = if p = .ram c then b else s.ramByte c := by
  cases p with
  | ram a =>
    simp only [physWrite, ramByte_setRam_write, Loc.ram.injEq]
    simp [eq_comm]
  | rom a => simp [physWrite]
  | device d k o => simp [physWrite]
  | absent => simp [physWrite]

@[simp] theorem physWrite_mmu (p : Loc) (b : Byte) (s : State) : (physWrite p b s).mmu = s.mmu := by cases p <;> rfl

theorem setAccessed_frame (a : Word) (s : State) : OnlyStore s (setAccessed a s) := by
  unfold setAccessed
  split
  · rename_i h
    refine ⟨rfl, le_refl _, id, fun c hc => .inl hc, fun k => ?_, fun m => absurd h (by simp [m])⟩
    rw [setMmu_mmuWord]
    split
    · rename_i hk; subst hk; exact .inr rfl
    · exact .inl rfl
  · exact OnlyStore.refl s

@[simp] theorem setAccessed_ramByte (a : Word) (s : State) (c : Nat) : (setAccessed a s).ramByte c = s.ramByte c := by
  unfold setAccessed; split <;> rfl

/-- The MMU words after `SetA`. -/
theorem setAccessed_mmuWord (a : Word) (s : State) (k : Fin 32) :
    (setAccessed a s).mmuWord k =
      if s.ps.M = true ∧ k = mmuHigh (bankOf a) then s.mmuWord k ||| 0x0800 else s.mmuWord k := by
  unfold setAccessed
  by_cases h : s.ps.M = true
  · simp only [h, if_true, true_and, setMmu_mmuWord]
    split
    · rename_i hk; rw [hk]
    · rfl
  · simp [h]

/-- A store changes accessed bits only, which translation does not read. -/
theorem OnlyStore.translate {s t : State} (h : OnlyStore s t) (hl : ∀ k, t.mmuWord (mmuLow k) = s.mmuWord (mmuLow k))
    (a : Word) (k : Access) : Machine.translate t a k = Machine.translate s a k :=
  translate_congr_accessed h.ps h.im h.cfg hl (fun j => h.mmu (mmuHigh j)) a k

-- Accesses.

theorem readByte_ok {k : Access} {a : Word} {s t : State} {v : Byte} (h : readByte k a s = .ok v t) :
    ∃ p, translate s a k = .ok p ∧ v = (physRead p s).1 ∧ t = (physRead p s).2 ∧ OnlyBus s t := by
  unfold readByte at h
  split at h
  · cases h
  · cases h; exact ⟨_, by assumption, rfl, rfl, physRead_frame _ _⟩

theorem readByte_raise {k : Access} {a : Word} {s t : State} {c : Cause} (h : readByte k a s = .raise c t) :
    t = s ∧ translate s a k = .error c := by
  unfold readByte at h
  split at h
  · cases h; exact ⟨rfl, by assumption⟩
  · cases h

theorem translatePair_ok {s : State} {a : Word} {k : Access} {p : Loc × Loc} (h : translatePair s a k = .ok p) :
    translate s a k = .ok p.1 ∧ translate s (a + 1) k = .ok p.2 := by
  unfold translatePair at h
  split at h
  · cases h
  · split at h
    · cases h
    · cases h; constructor <;> assumption

theorem translatePair_error {s : State} {a : Word} {k : Access} {c : Cause} (h : translatePair s a k = .error c) :
    translate s a k = .error c ∨ (∃ p, translate s a k = .ok p) ∧ translate s (a + 1) k = .error c := by
  unfold translatePair at h
  split at h
  · cases h; left; assumption
  · split at h
    · cases h; right; exact ⟨⟨_, by assumption⟩, by assumption⟩
    · cases h

theorem readPair_ok {k : Access} {a : Word} {s t : State} {v : Byte × Byte} (h : readPair k a s = .ok v t) :
    ∃ p, translatePair s a k = .ok p ∧ v.1 = (physRead p.1 s).1 ∧ v.2 = (physRead p.2 (physRead p.1 s).2).1 ∧
      t = (physRead p.2 (physRead p.1 s).2).2 ∧ OnlyBus s t := by
  unfold readPair at h
  split at h
  · cases h
  · cases h
    exact ⟨_, by assumption, rfl, rfl, rfl, (physRead_frame _ _).trans (physRead_frame _ _)⟩

theorem readPair_raise {k : Access} {a : Word} {s t : State} {c : Cause} (h : readPair k a s = .raise c t) :
    t = s ∧ translatePair s a k = .error c := by
  unfold readPair at h
  split at h
  · cases h; exact ⟨rfl, by assumption⟩
  · cases h

theorem readWord_ok {k : Access} {a : Word} {s t : State} {v : Word} (h : readWord k a s = .ok v t) :
    ∃ b, readPair k a s = .ok b t ∧ v = wordOf b.1 b.2 ∧ OnlyBus s t := by
  unfold readWord at h
  obtain ⟨b, u, hb, h⟩ := Res.bind_eq_ok.1 h
  cases h
  obtain ⟨_, _, _, _, _, hf⟩ := readPair_ok hb
  exact ⟨b, hb, rfl, hf⟩

theorem readWord_raise {k : Access} {a : Word} {s t : State} {c : Cause} (h : readWord k a s = .raise c t) :
    t = s ∧ translatePair s a k = .error c := by
  unfold readWord at h
  rcases Res.bind_eq_raise.1 h with h | ⟨_, _, _, h⟩
  · exact readPair_raise h
  · cases h

theorem writeByte_ok {a : Word} {v : Byte} {s t : State} {x : Unit} (h : writeByte a v s = .ok x t) :
    ∃ p, translate s a .write = .ok p ∧ t = physWrite p v (setAccessed a s) ∧ OnlyStore s t := by
  unfold writeByte at h
  split at h
  · cases h
  · cases h
    refine ⟨_, by assumption, rfl, (setAccessed_frame a s).trans (physWrite_frame ?_ v)⟩
    rintro n rfl
    rw [(setAccessed_frame a s).cfg]
    exact translate_ram (by assumption)

theorem writeByte_raise {a : Word} {v : Byte} {s t : State} {c : Cause} (h : writeByte a v s = .raise c t) :
    t = s ∧ translate s a .write = .error c := by
  unfold writeByte at h
  split at h
  · cases h; exact ⟨rfl, by assumption⟩
  · cases h

theorem writePair_ok {a : Word} {lo hi : Byte} {s t : State} {x : Unit} (h : writePair a lo hi s = .ok x t) :
    ∃ p, translatePair s a .write = .ok p ∧
      t = physWrite p.2 hi (physWrite p.1 lo (setAccessed (a + 1) (setAccessed a s))) ∧ OnlyStore s t := by
  unfold writePair at h
  split at h
  · cases h
  · rename_i p hp
    cases h
    obtain ⟨h0, h1⟩ := translatePair_ok hp
    have ha := (setAccessed_frame a s).trans (setAccessed_frame (a + 1) _)
    have hb := ha.trans (physWrite_frame (p := p.1) (fun n hn => by
      rw [ha.cfg]; exact translate_ram (by rw [h0, hn])) lo)
    refine ⟨p, by assumption, rfl, hb.trans (physWrite_frame (fun n hn => ?_) hi)⟩
    rw [hb.cfg]
    exact translate_ram (by rw [h1, hn])

theorem writePair_raise {a : Word} {lo hi : Byte} {s t : State} {c : Cause} (h : writePair a lo hi s = .raise c t) :
    t = s ∧ translatePair s a .write = .error c := by
  unfold writePair at h
  split at h
  · cases h; exact ⟨rfl, by assumption⟩
  · cases h

/-- What a byte of RAM reads after a 16-bit store. -/
theorem writePair_ramByte {a : Word} {lo hi : Byte} {s t : State} {x : Unit} {p : Loc × Loc}
    (hp : translatePair s a .write = .ok p) (h : writePair a lo hi s = .ok x t) (c : Nat) :
    t.ramByte c = if p.2 = .ram c then hi else if p.1 = .ram c then lo else s.ramByte c := by
  obtain ⟨q, hq, rfl, _⟩ := writePair_ok h
  rw [hp] at hq
  cases hq
  simp [physWrite_ramByte]

theorem accessed_twice (m p q : Prop) [Decidable m] [Decidable p] [Decidable q] (w : Word) :
    (if m ∧ q then (if m ∧ p then w ||| 0x0800 else w) ||| 0x0800 else if m ∧ p then w ||| 0x0800 else w) =
      if m ∧ (p ∨ q) then w ||| 0x0800 else w := by
  by_cases hm : m <;> by_cases hp : p <;> by_cases hq : q <;> simp [hm, hp, hq, or_or_self]

/-- The MMU words after a 16-bit store: the accessed bits of the banks of its two bytes (R86). -/
theorem writePair_mmuWord {a : Word} {lo hi : Byte} {s t : State} {x : Unit} (h : writePair a lo hi s = .ok x t)
    (k : Fin 32) :
    t.mmuWord k = if s.ps.M = true ∧ (k = mmuHigh (bankOf a) ∨ k = mmuHigh (bankOf (a + 1))) then
      s.mmuWord k ||| 0x0800 else s.mmuWord k := by
  obtain ⟨q, hq, rfl, _⟩ := writePair_ok h
  have e (p p' : Loc) (b b' : Byte) (u : State) : (physWrite p b (physWrite p' b' u)).mmuWord k = u.mmuWord k := by
    unfold State.mmuWord; simp
  rw [e, setAccessed_mmuWord, setAccessed_mmuWord, (setAccessed_frame a s).ps]
  exact accessed_twice _ _ _ _

theorem mmuHigh_ne_mmuLow (j k : Fin 16) : mmuLow j ≠ mmuHigh k := by
  intro h
  have := congrArg Fin.val h
  simp only [mmuLow, mmuHigh] at this
  omega

/-- A store leaves translation as it was. -/
theorem writePair_translate {a : Word} {lo hi : Byte} {s t : State} {x : Unit} (h : writePair a lo hi s = .ok x t)
    (b : Word) (k : Access) : translate t b k = translate s b k := by
  obtain ⟨_, _, _, hf⟩ := writePair_ok h
  refine hf.translate (fun j => ?_) b k
  rw [writePair_mmuWord h]
  simp [mmuHigh_ne_mmuLow]

-- The stack.

/-- The frame of a push: SP two lower, and a store. -/
theorem pushPair_ok {lo hi : Byte} {s t : State} {x : Unit} (h : pushPair lo hi s = .ok x t) :
    ∃ u, writePair (s.sp - 2) lo hi s = .ok () u ∧ t = u.setSp (s.sp - 2) ∧ OnlyStore s u := by
  unfold pushPair at h
  obtain ⟨_, u, hu, h⟩ := Res.bind_eq_ok.1 h
  cases h
  obtain ⟨_, _, _, hf⟩ := writePair_ok hu
  exact ⟨u, hu, rfl, hf⟩

theorem pushPair_raise {lo hi : Byte} {s t : State} {c : Cause} (h : pushPair lo hi s = .raise c t) :
    t = s ∧ translatePair s (s.sp - 2) .write = .error c := by
  unfold pushPair at h
  rcases Res.bind_eq_raise.1 h with h | ⟨_, _, _, h⟩
  · exact writePair_raise h
  · cases h

theorem popPair_ok {s t : State} {b : Byte × Byte} (h : popPair s = .ok b t) :
    ∃ u, readPair .read s.sp s = .ok b u ∧ t = u.setSp (s.sp + 2) ∧ OnlyBus s u := by
  unfold popPair at h
  obtain ⟨_, u, hu, h⟩ := Res.bind_eq_ok.1 h
  cases h
  obtain ⟨_, _, _, _, _, hf⟩ := readPair_ok hu
  exact ⟨u, hu, rfl, hf⟩

theorem popPair_raise {s t : State} {c : Cause} (h : popPair s = .raise c t) :
    t = s ∧ translatePair s s.sp .read = .error c := by
  unfold popPair at h
  rcases Res.bind_eq_raise.1 h with h | ⟨_, _, _, h⟩
  · exact readPair_raise h
  · cases h

theorem pop_ok {s t : State} {v : Word} (h : pop s = .ok v t) :
    ∃ u, readWord .read s.sp s = .ok v u ∧ t = u.setSp (s.sp + 2) ∧ OnlyBus s u := by
  unfold pop at h
  obtain ⟨b, u, hu, h⟩ := Res.bind_eq_ok.1 h
  cases h
  obtain ⟨w, hw, rfl, hf⟩ := popPair_ok hu
  exact ⟨w, by simp [readWord, hw], rfl, hf⟩

theorem pop_raise {s t : State} {c : Cause} (h : pop s = .raise c t) :
    t = s ∧ translatePair s s.sp .read = .error c := by
  unfold pop at h
  rcases Res.bind_eq_raise.1 h with h | ⟨_, _, _, h⟩
  · exact popPair_raise h
  · cases h

-- With the MMU off every access succeeds (R88).

theorem readPair_of_not_M {s : State} (h : s.ps.M = false) (k : Access) (a : Word) : ∃ v t, readPair k a s = .ok v t := by
  obtain ⟨p, hp⟩ := translatePair_of_not_M h a k
  simp only [readPair, hp]
  exact ⟨_, _, rfl⟩

theorem readWord_of_not_M {s : State} (h : s.ps.M = false) (k : Access) (a : Word) : ∃ v t, readWord k a s = .ok v t := by
  obtain ⟨v, t, hv⟩ := readPair_of_not_M h k a
  exact ⟨wordOf v.1 v.2, t, by simp only [readWord, hv, Res.bind_ok]⟩

theorem writePair_of_not_M {s : State} (h : s.ps.M = false) (a : Word) (lo hi : Byte) :
    ∃ t, writePair a lo hi s = .ok () t := by
  obtain ⟨p, hp⟩ := translatePair_of_not_M h a .write
  simp only [writePair, hp]
  exact ⟨_, rfl⟩

theorem pushPair_of_not_M {s : State} (h : s.ps.M = false) (lo hi : Byte) : ∃ t, pushPair lo hi s = .ok () t := by
  obtain ⟨t, ht⟩ := writePair_of_not_M h (s.sp - 2) lo hi
  exact ⟨t.setSp (s.sp - 2), by simp only [pushPair, ht, Res.bind_ok]⟩

theorem popPair_of_not_M {s : State} (h : s.ps.M = false) : ∃ v t, popPair s = .ok v t := by
  obtain ⟨v, t, hv⟩ := readPair_of_not_M h .read s.sp
  exact ⟨v, _, by simp only [popPair, hv, Res.bind_ok]; rfl⟩

end Sys2Proof.Machine
end

