-- ==== Sys2Proof/Laws/Operands.lean ====
section
/-! SUPPORT. What resolving an operand can do: a read or a store, and then the update of the base register. -/

namespace Sys2Proof.Machine

/-- The state with the base register of an operand updated from what it held in `s`. -/
def withBase (m : Operand) (size : Word) (s u : State) : State :=
  match m.base with
  | some r => u.setReg r (m.baseAfter size s r)
  | none => u

theorem operandUpdate_eq {size : Word} {m : Operand} {s : State} {a : Word} (h : operandAddr size m s = some a) (u : State) :
    operandUpdate size m a u = withBase m size s u := by
  cases m <;> simp only [operandAddr, Option.some.injEq, reduceCtorEq] at h <;> subst h <;> rfl

theorem withBase_reg (m : Operand) (size : Word) (s u : State) (r : Reg) :
    (withBase m size s u).reg r = if m.base = some r then m.baseAfter size s r else u.reg r := by
  unfold withBase
  cases hb : m.base with
  | none => simp
  | some k =>
    simp only [setReg_reg, Option.some.injEq, eq_comm (a := r)]
    by_cases hk : k = r
    · subst hk; simp
    · simp [hk]

theorem withBase_eq (m : Operand) (size : Word) (s u : State) :
    withBase m size s u = { u with regs := (withBase m size s u).regs } := by
  unfold withBase; cases m.base <;> rfl

@[simp] theorem operandLength_eq (m : Operand) : BitVec.ofNat 16 (operandLength m) = m.len := by
  cases m <;> rfl

/-- Reading a 16-bit operand: a read, then the base register. -/
theorem readOperand_ok {m : Operand} {s t : State} {v : Word} (h : readOperand m s = .ok v t) :
    ∃ u, OnlyBus s u ∧ t = withBase m 2 s u := by
  cases m <;> simp only [readOperand, operandAddr] at h
  case imm => cases h; exact ⟨s, OnlyBus.refl s, rfl⟩
  case reg => cases h; exact ⟨s, OnlyBus.refl s, rfl⟩
  all_goals
    obtain ⟨w, u, hu, h⟩ := Res.bind_eq_ok.1 h
    cases h
    obtain ⟨_, _, _, hf⟩ := readWord_ok hu
    exact ⟨u, hf, rfl⟩

/-- Reading a 16-bit operand that faults changes nothing (R372). -/
theorem readOperand_raise {m : Operand} {s t : State} {c : Cause} (h : readOperand m s = .raise c t) :
    t = s ∧ ∃ a, operandAddr 2 m s = some a ∧ translatePair s a .read = .error c := by
  cases m <;> simp only [readOperand, operandAddr] at h <;> try cases h
  all_goals
    rcases Res.bind_eq_raise.1 h with h | ⟨_, _, _, h⟩
    · exact ⟨(readWord_raise h).1, _, rfl, (readWord_raise h).2⟩
    · cases h

/-- Reading an 8-bit operand: a read, then the base register. -/
theorem readOperand8_ok {m : Operand} {s t : State} {v : Byte} (h : readOperand8 m s = .ok v t) :
    ∃ u, OnlyBus s u ∧ t = withBase m 1 s u := by
  cases m <;> simp only [readOperand8, operandAddr] at h
  case imm => cases h; exact ⟨s, OnlyBus.refl s, rfl⟩
  case reg => cases h; exact ⟨s, OnlyBus.refl s, rfl⟩
  all_goals
    obtain ⟨w, u, hu, h⟩ := Res.bind_eq_ok.1 h
    cases h
    obtain ⟨_, _, _, _, hf⟩ := readByte_ok hu
    exact ⟨u, hf, rfl⟩

/-- Storing to a 16-bit operand: the store, then the base register. -/
theorem storeOperand_ok {m : Operand} {s t : State} {v : Word} {x : Unit} (h : storeOperand m v s = .ok x t) :
    ∃ a u, operandAddr 2 m s = some a ∧ writeWord a v s = .ok () u ∧ t = withBase m 2 s u := by
  unfold storeOperand at h
  split at h
  · rename_i a ha
    obtain ⟨_, u, hu, h⟩ := Res.bind_eq_ok.1 h
    cases h
    exact ⟨a, u, ha, hu, operandUpdate_eq ha u⟩
  · cases h

/-- Storing to an 8-bit operand: the store, then the base register. -/
theorem storeOperand8_ok {m : Operand} {s t : State} {v : Byte} {x : Unit} (h : storeOperand8 m v s = .ok x t) :
    ∃ a u, operandAddr 1 m s = some a ∧ writeByte a v s = .ok () u ∧ t = withBase m 1 s u := by
  unfold storeOperand8 at h
  split at h
  · rename_i a ha
    obtain ⟨_, u, hu, h⟩ := Res.bind_eq_ok.1 h
    cases h
    exact ⟨a, u, ha, hu, operandUpdate_eq ha u⟩
  · cases h

/-- With the MMU off every operand can be read (R88). -/
theorem readOperand_of_not_M {s : State} (h : s.ps.M = false) (m : Operand) : ∃ v t, readOperand m s = .ok v t := by
  cases m <;> simp only [readOperand, operandAddr]
  case imm => exact ⟨_, _, rfl⟩
  case reg => exact ⟨_, _, rfl⟩
  all_goals
    obtain ⟨v, t, hv⟩ := readWord_of_not_M h .read _
    rw [hv]
    exact ⟨_, _, rfl⟩

end Sys2Proof.Machine
end

