-- ==== Sys2Proof/Laws/PerInstr.lean ====
section
/-! SUPPORT. The families of LAWS.json. EncodeLength: the encoding of a well-formed instruction is as many bytes long as the
instruction (spec/30_encoding.md R110, R136). -/

namespace Sys2Proof.Laws.EncodeLength

/-- The encoding of a well-formed instruction has the length of the instruction. -/
def Statement (i : Instr) : Prop := i.wellFormed = true → (bytesOf (encode i)).length = i.length


theorem lod (rd : Reg) (m : Operand) : Statement (.lod rd m) := fun _ => by cases m <;> rfl
theorem sto (rd : Reg) (m : Operand) : Statement (.sto rd m) := fun _ => by cases m <;> rfl
theorem add (rd : Reg) (m : Operand) : Statement (.add rd m) := fun _ => by cases m <;> rfl
theorem sub (rd : Reg) (m : Operand) : Statement (.sub rd m) := fun _ => by cases m <;> rfl
theorem adc (rd : Reg) (m : Operand) : Statement (.adc rd m) := fun _ => by cases m <;> rfl
theorem sbc (rd : Reg) (m : Operand) : Statement (.sbc rd m) := fun _ => by cases m <;> rfl
theorem mul (rd : Reg) (m : Operand) : Statement (.mul rd m) := fun _ => by cases m <;> rfl
theorem div (rd : Reg) (m : Operand) : Statement (.div rd m) := fun _ => by cases m <;> rfl
theorem mli (rd : Reg) (m : Operand) : Statement (.mli rd m) := fun _ => by cases m <;> rfl
theorem dvi (rd : Reg) (m : Operand) : Statement (.dvi rd m) := fun _ => by cases m <;> rfl
theorem mod (rd : Reg) (m : Operand) : Statement (.mod rd m) := fun _ => by cases m <;> rfl
theorem mdi (rd : Reg) (m : Operand) : Statement (.mdi rd m) := fun _ => by cases m <;> rfl
theorem and (rd : Reg) (m : Operand) : Statement (.and rd m) := fun _ => by cases m <;> rfl
theorem orr (rd : Reg) (m : Operand) : Statement (.orr rd m) := fun _ => by cases m <;> rfl
theorem eor (rd : Reg) (m : Operand) : Statement (.eor rd m) := fun _ => by cases m <;> rfl
theorem not (rd : Reg) (m : Operand) : Statement (.not rd m) := fun _ => by cases m <;> rfl
theorem cmp (rd : Reg) (m : Operand) : Statement (.cmp rd m) := fun _ => by cases m <;> rfl
theorem neg (rd : Reg) (m : Operand) : Statement (.neg rd m) := fun _ => by cases m <;> rfl
theorem undefStoImm : Statement .undefStoImm := fun _ => rfl
theorem undefStoReg : Statement .undefStoReg := fun _ => rfl
theorem lod8 (rd : Reg) (m : Operand) : Statement (.lod8 rd m) := fun _ => by cases m <;> rfl
theorem sto8 (rd : Reg) (m : Operand) : Statement (.sto8 rd m) := fun _ => by cases m <;> rfl
theorem undefSto8Imm : Statement .undefSto8Imm := fun _ => rfl
theorem undefSto8Reg : Statement .undefSto8Reg := fun _ => rfl
theorem bcc (off : BitVec 8) : Statement (.bcc off) := fun _ => rfl
theorem bcs (off : BitVec 8) : Statement (.bcs off) := fun _ => rfl
theorem bne (off : BitVec 8) : Statement (.bne off) := fun _ => rfl
theorem beq (off : BitVec 8) : Statement (.beq off) := fun _ => rfl
theorem bpl (off : BitVec 8) : Statement (.bpl off) := fun _ => rfl
theorem bmi (off : BitVec 8) : Statement (.bmi off) := fun _ => rfl
theorem bvc (off : BitVec 8) : Statement (.bvc off) := fun _ => rfl
theorem bvs (off : BitVec 8) : Statement (.bvs off) := fun _ => rfl
theorem bug (off : BitVec 8) : Statement (.bug off) := fun _ => rfl
theorem bsg (off : BitVec 8) : Statement (.bsg off) := fun _ => rfl
theorem undefBranchA : Statement .undefBranchA := fun _ => rfl
theorem undefBranchB : Statement .undefBranchB := fun _ => rfl
theorem undefBranchC : Statement .undefBranchC := fun _ => rfl
theorem undefBranchD : Statement .undefBranchD := fun _ => rfl
theorem undefBranchE : Statement .undefBranchE := fun _ => rfl
theorem baw (off : BitVec 8) : Statement (.baw off) := fun _ => rfl
theorem asl (rd : Reg) (n : Count) : Statement (.asl rd n) := fun _ => by cases n <;> rfl
theorem lsl (rd : Reg) (n : Count) : Statement (.lsl rd n) := fun _ => by cases n <;> rfl
theorem rol (rd : Reg) (n : Count) : Statement (.rol rd n) := fun _ => by cases n <;> rfl
theorem rnl (rd : Reg) (n : Count) : Statement (.rnl rd n) := fun _ => by cases n <;> rfl
theorem asr (rd : Reg) (n : Count) : Statement (.asr rd n) := fun _ => by cases n <;> rfl
theorem lsr (rd : Reg) (n : Count) : Statement (.lsr rd n) := fun _ => by cases n <;> rfl
theorem ror (rd : Reg) (n : Count) : Statement (.ror rd n) := fun _ => by cases n <;> rfl
theorem rnr (rd : Reg) (n : Count) : Statement (.rnr rd n) := fun _ => by cases n <;> rfl
theorem bit (rd : Reg) (n : Count) : Statement (.bit rd n) := fun _ => by cases n <;> rfl
theorem btx (rd : Reg) (n : Count) : Statement (.btx rd n) := fun _ => by cases n <;> rfl
theorem btc (rd : Reg) (n : Count) : Statement (.btc rd n) := fun _ => by cases n <;> rfl
theorem bts (rd : Reg) (n : Count) : Statement (.bts rd n) := fun _ => by cases n <;> rfl
theorem swo (rd rs : Reg) (op : SwoOp) : Statement (.swo rd rs op) := fun _ => rfl
theorem fpa (rx ry : Reg) : Statement (.fpa rx ry) := fun _ => rfl
theorem fps (rx ry : Reg) : Statement (.fps rx ry) := fun _ => rfl
theorem fpm (rx ry : Reg) : Statement (.fpm rx ry) := fun _ => rfl
theorem fpd (rx ry : Reg) : Statement (.fpd rx ry) := fun _ => rfl
theorem sef (mask : BitVec 4) : Statement (.sef mask) := fun _ => rfl
theorem clf (mask : BitVec 4) : Statement (.clf mask) := fun _ => rfl
theorem pshGeneral (list : BitVec 8) : Statement (.pshGeneral list) := fun _ => rfl
theorem pshSpecial (list : BitVec 5) : Statement (.pshSpecial list) := fun _ => rfl
theorem popGeneral (list : BitVec 8) : Statement (.popGeneral list) := fun _ => rfl
theorem popSpecial (list : BitVec 5) : Statement (.popSpecial list) := fun _ => rfl
theorem rts : Statement .rts := fun _ => rfl
theorem mim (rv ra : Reg) : Statement (.mim rv ra) := fun _ => rfl
theorem mia (ra : Reg) : Statement (.mia ra) := fun _ => rfl
theorem undefMim2 : Statement .undefMim2 := fun _ => rfl
theorem undefMim3 : Statement .undefMim3 := fun _ => rfl
theorem undefB5 : Statement .undefB5 := fun _ => rfl
theorem undefB6 (lo : BitVec 1) : Statement (.undefB6 lo) := fun _ => rfl
theorem adi (rd : Reg) (v : BitVec 5) : Statement (.adi rd v) := fun _ => rfl
theorem sbi (rd : Reg) (v : BitVec 5) : Statement (.sbi rd v) := fun _ => rfl
theorem inc (rd : Reg) : Statement (.inc rd) := fun _ => rfl
theorem dec (rd : Reg) : Statement (.dec rd) := fun _ => rfl
theorem tsr (rd : Reg) (sr : BitVec 5) : Statement (.tsr rd sr) := fun _ => rfl
theorem trs (rs : Reg) (sr : BitVec 5) : Statement (.trs rs sr) := fun _ => rfl
theorem undefBC (lo : BitVec 2) : Statement (.undefBC lo) := fun _ => rfl
theorem jmp (m : Operand) : Statement (.jmp m) := fun _ => by cases m <;> rfl
theorem jsr (m : Operand) : Statement (.jsr m) := fun _ => by cases m <;> rfl
theorem jmu (m : Operand) : Statement (.jmu m) := fun _ => by cases m <;> rfl
theorem jcx : Statement .jcx := fun _ => rfl
theorem hwq (op : BitVec 8) : Statement (.hwq op) := fun _ => rfl
theorem hwqCount : Statement .hwqCount := fun _ => rfl
theorem hwqQuery : Statement .hwqQuery := fun _ => rfl
theorem hwqMessage : Statement .hwqMessage := fun _ => rfl
theorem hwqSetTick : Statement .hwqSetTick := fun _ => rfl
theorem hwqGetTime : Statement .hwqGetTime := fun _ => rfl
theorem slp : Statement .slp := fun _ => rfl
theorem swi : Statement .swi := fun _ => rfl
theorem rti : Statement .rti := fun _ => rfl
theorem undefC8 (lo : BitVec 2) : Statement (.undefC8 lo) := fun _ => rfl
theorem mmr (rv ra : Reg) : Statement (.mmr rv ra) := fun _ => rfl
theorem mmw (rv ra : Reg) : Statement (.mmw rv ra) := fun _ => rfl
theorem mml (m : Operand) : Statement (.mml m) := fun _ => by cases m <;> rfl
theorem mms (m : Operand) : Statement (.mms m) := fun _ => by cases m <;> rfl
theorem undefE0 (lo : BitVec 5) : Statement (.undefE0 lo) := fun _ => rfl

end Sys2Proof.Laws.EncodeLength
end

