-- ==== Sys2Proof/Laws/Stack.lean ====
section
/-! SUPPORT. What pushes and pops can do, one and several at a time. -/

namespace Sys2Proof.Machine

/-- Only RAM, A bits, the current stack pointer, the bus history and the draw counter have changed: the frame of pushes. -/
structure OnlyPush (s t : State) : Prop where
  eq    : t = { s with ram := t.ram, mmu := t.mmu, bus := t.bus, free := t.free, ssp := t.ssp, usp := t.usp }
  store : OnlyStore s { t with ssp := s.ssp, usp := s.usp }
  super : s.ps.S = true → t.usp = s.usp
  user  : s.ps.S = false → t.ssp = s.ssp

theorem OnlyPush.refl (s : State) : OnlyPush s s := ⟨rfl, OnlyStore.refl s, fun _ => rfl, fun _ => rfl⟩

theorem OnlyPush.ps {s t : State} (h : OnlyPush s t) : t.ps = s.ps := (congrArg State.ps h.eq :)

theorem OnlyPush.trans {s t u : State} (h : OnlyPush s t) (g : OnlyPush t u) : OnlyPush s u where
  eq := by
    have := g.eq
    rw [h.eq] at this
    exact this
  store := by
    have g' := g.store
    have h' := h.store
    refine h'.trans ⟨?_, g'.free, g'.wf, fun c hc => ?_, g'.mmu, fun m => g'.off ?_⟩
    · have := g.eq
      rw [h.eq] at this ⊢
      rw [this]
    · exact g'.range c hc
    · exact m
  super := fun m => (g.super (by rw [h.ps]; exact m)).trans (h.super m)
  user := fun m => (g.user (by rw [h.ps]; exact m)).trans (h.user m)

theorem OnlyStore.setSp {s u : State} (h : OnlyStore s u) (v : Word) : OnlyPush s (u.setSp v) := by
  cases hS : u.ps.S with
  | true =>
    have e : u.setSp v = u.setSsp v := by simp [State.setSp, hS]
    rw [e]
    refine ⟨?_, ⟨?_, h.free, h.wf, h.range, h.mmu, h.off⟩, fun _ => h.usp, fun m => ?_⟩
    · rw [h.eq]; rfl
    · rw [h.eq]; rfl
    · rw [h.ps, m] at hS; cases hS
  | false =>
    have e : u.setSp v = u.setUsp v := by simp [State.setSp, hS]
    rw [e]
    refine ⟨?_, ⟨?_, h.free, h.wf, h.range, h.mmu, h.off⟩, fun m => ?_, fun _ => h.ssp⟩
    · rw [h.eq]; rfl
    · rw [h.eq]; rfl
    · rw [h.ps, m] at hS; cases hS

/-- The frame of one push. -/
theorem push_ok {v : Word} {s t : State} {x : Unit} (h : push v s = .ok x t) :
    ∃ u, writeWord (s.sp - 2) v s = .ok () u ∧ t = u.setSp (s.sp - 2) ∧ OnlyStore s u ∧ OnlyPush s t := by
  obtain ⟨u, hu, rfl, hf⟩ := pushPair_ok h
  exact ⟨u, hu, rfl, hf, hf.setSp _⟩

/-- A push leaves translation as it was. -/
theorem push_translate {v : Word} {s t : State} {x : Unit} (h : push v s = .ok x t) (a : Word) (k : Access) :
    Machine.translate t a k = Machine.translate s a k := by
  obtain ⟨u, hu, rfl, _, _⟩ := push_ok h
  rw [← writePair_translate hu a k]
  exact translate_congr (by simp) (by simp) (by simp) (by simp) a k

theorem push_translatePair {v : Word} {s t : State} {x : Unit} (h : push v s = .ok x t) (a : Word) (k : Access) :
    translatePair t a k = translatePair s a k := by
  unfold translatePair; rw [push_translate h, push_translate h]

theorem push_sp {v : Word} {s t : State} {x : Unit} (h : push v s = .ok x t) : t.sp = s.sp - 2 := by
  obtain ⟨u, _, rfl, _, _⟩ := push_ok h
  simp

/-- A push succeeds where its two bytes may be written. -/
theorem push_of_translate {v : Word} {s : State} {p : Loc × Loc} (h : translatePair s (s.sp - 2) .write = .ok p) :
    ∃ t, push v s = .ok () t := by
  unfold push pushPair writePair
  rw [h]
  exact ⟨_, rfl⟩

/-- What a byte of RAM reads after a 16-bit store: the low byte, the high byte, or what it was. -/
theorem writeWord_ramByte {a v : Word} {s t : State} {x : Unit} (h : writeWord a v s = .ok x t) (k : Nat) :
    (WritesByte s a k → t.ramByte k = loByte v) ∧ (WritesByte s (a + 1) k → t.ramByte k = hiByte v) ∧
      (¬ WritesByte s a k → ¬ WritesByte s (a + 1) k → t.ramByte k = s.ramByte k) := by
  obtain ⟨p, hp, _⟩ := writePair_ok h
  have hr := writePair_ramByte hp h k
  obtain ⟨h0, h1⟩ := translatePair_ok hp
  unfold WritesByte
  rw [h0, h1]
  refine ⟨?_, ?_, ?_⟩
  · intro e
    injection e with e
    rw [hr, if_neg, if_pos e]
    intro e2
    exact absurd rfl (translate_ram_ne (by rw [h0, e]) (by rw [h1, e2]))
  · intro e
    injection e with e
    rw [hr, if_pos e]
  · intro a b
    rw [hr, if_neg (fun e => b (by rw [e])), if_neg (fun e => a (by rw [e]))]

/-- What a byte of RAM reads after a push. -/
theorem push_ramByte {v : Word} {s t : State} {x : Unit} (h : push v s = .ok x t) (k : Nat) :
    (WritesByte s (s.sp - 2) k → t.ramByte k = loByte v) ∧ (WritesByte s (s.sp - 2 + 1) k → t.ramByte k = hiByte v) ∧
      (¬ WritesByte s (s.sp - 2) k → ¬ WritesByte s (s.sp - 2 + 1) k → t.ramByte k = s.ramByte k) := by
  obtain ⟨u, hu, rfl, _, _⟩ := push_ok h
  simpa using writeWord_ramByte hu k

/-- A store changes the MMU words in A bits only (R86). -/
theorem writePair_butAccessed {a : Word} {lo hi : Byte} {s t : State} {x : Unit} (h : writePair a lo hi s = .ok x t) :
    SameMmuButAccessed s t := by
  intro k
  rw [writePair_mmuWord h]
  split
  · rename_i hc
    refine .inr ⟨hc.1, ?_, rfl⟩
    rcases hc.2 with rfl | rfl <;> simp only [mmuHigh] <;> omega
  · exact .inl rfl

theorem SameMmuButAccessed.trans {s t u : State} (hps : t.ps = s.ps) (h : SameMmuButAccessed s t)
    (g : SameMmuButAccessed t u) : SameMmuButAccessed s u := by
  intro k
  rcases h k with h1 | ⟨hm, ho, h1⟩ <;> rcases g k with g1 | ⟨gm, go, g1⟩
  · exact .inl (g1.trans h1)
  · exact .inr ⟨by rw [← hps]; exact gm, go, by rw [g1, h1]⟩
  · exact .inr ⟨hm, ho, by rw [g1, h1]⟩
  · exact .inr ⟨hm, ho, by rw [g1, h1, or_or_self]⟩

theorem push_butAccessed {v : Word} {s t : State} {x : Unit} (h : push v s = .ok x t) : SameMmuButAccessed s t := by
  obtain ⟨u, hu, rfl, _, _⟩ := push_ok h
  intro k
  simpa using writePair_butAccessed hu k

theorem OnlyPush.status {s t : State} (h : OnlyPush s t) : SameStatus s t :=
  have g := h.store
  ⟨g.ps, g.psClean, g.ia, g.ii, g.p2, g.bank, g.ramEpoch, g.halted, g.tick, g.rtcTime, g.inputs, g.cfg⟩

/-- A pop changes the current stack pointer, the bus history and the draw counter only. -/
theorem pop_frame {v : Word} {s t : State} (h : pop s = .ok v t) :
    t = { s with bus := t.bus, free := t.free, ssp := t.ssp, usp := t.usp } ∧ s.free ≤ t.free ∧ t.sp = s.sp + 2 ∧
      (s.ps.S = true → t.usp = s.usp) ∧ (s.ps.S = false → t.ssp = s.ssp) := by
  obtain ⟨u, _, rfl, hf⟩ := pop_ok h
  refine ⟨?_, ?_, by simp, ?_, ?_⟩
  · unfold State.setSp
    split <;> rw [hf.eq] <;> rfl
  · unfold State.setSp
    split <;> exact hf.free
  · intro m; simp [hf.store.ps, m, hf.store.usp]
  · intro m; simp [hf.store.ps, m, hf.store.ssp]

/-- A pop leaves translation as it was. -/
theorem pop_translate {v : Word} {s t : State} (h : pop s = .ok v t) (a : Word) (k : Access) :
    Machine.translate t a k = Machine.translate s a k := by
  obtain ⟨e, _⟩ := pop_frame h
  exact translate_congr (by rw [e]) (by rw [e]) (by rw [e]) (by rw [e]) a k

/-- A load of the MMU cache changes the MMU words, the bus history and the draw counter only, however far it gets. -/
theorem loadMmu_frame {a : Word} {s t : State} (h : (loadMmu a s).state = t) :
    t = { s with mmu := t.mmu, bus := t.bus, free := t.free } ∧ s.free ≤ t.free := by
  have key (l : List (Fin 32)) : ∀ s t : State, (forEach (fun i t =>
      (readWord .read (a + BitVec.ofNat 16 (2 * i.val)) t).bind fun v u => .ok () (u.setMmu i v)) l s).state = t →
      t = { s with mmu := t.mmu, bus := t.bus, free := t.free } ∧ s.free ≤ t.free := by
    induction l with
    | nil => rintro s t rfl; exact ⟨rfl, le_refl _⟩
    | cons i l ih =>
      intro s t h
      simp only [forEach] at h
      cases hr : readWord .read (a + BitVec.ofNat 16 (2 * i.val)) s with
      | raise c u =>
        rw [hr] at h
        obtain ⟨rfl, _⟩ := readWord_raise hr
        subst h
        exact ⟨rfl, le_refl _⟩
      | ok v u =>
        rw [hr] at h
        obtain ⟨_, _, _, hf⟩ := readWord_ok hr
        obtain ⟨e, hle⟩ := ih (u.setMmu i v) t h
        refine ⟨?_, hf.free.trans hle⟩
        rw [hf.eq] at e
        exact e
  exact key _ s t h

/-- A write of PS (R79). -/
theorem writePs_eq (p : Status) (s : State) :
    writePs p s = { s with ps := p, psClean := false, im := if p.M = s.ps.M then s.im else defaultMap p.R } := by
  unfold writePs; split <;> rfl

theorem defaultMap_get (r : Bool) (k : Fin 16) : (defaultMap r).get k = defaultBank r k := by
  revert k; cases r <;> decide

end Sys2Proof.Machine
end

