-- ==== Sys2Proof/Tests/Slice0.lean ====
section
/-! SUPPORT. The tests: the checks of Instr.wellFormed, a word of every instruction, single steps with the results of
spec/95_test_vectors.md, and for every statement with hypotheses states that meet them. The expected values come from the
spec, not from the model. -/

open Sys2Proof Sys2Proof.Machine

namespace Sys2Proof.Tests

/-- The start state of spec/95_test_vectors.md section 0 (RAM that a test does not name keeps its unknown contents). -/
def start : State := { State.reset with ssp := 0x8000, usp := 0x7000, pc := 0x1000 }

/-- Words placed from logical address `a` up. -/
def put (a : Word) (ws : List Word) (s : State) : State := placeBytes a (bytesOf ws) s

/-- A byte placed at logical address `a`. -/
def putByte (a : Word) (b : Byte) (s : State) : State := placeByte a b s

/-- The identity map with all flags clear, as in section 2.11 of the vectors. -/
def identity (s : State) : State :=
  { s with mmu := Vector.ofFn fun i => if i.val % 2 = 0 then BitVec.ofNat 16 (i.val / 2) else 0 }

/-- MMU word i holds `v + i`. -/
def countingMmu (v : Nat) (s : State) : State := { s with mmu := Vector.ofFn fun i => BitVec.ofNat 16 (v + i.val) }

/-- The next state, if the outcome is one. -/
def nextOf (o : Host.Outcome State Fault Refusal) : Option State :=
  match o with
  | .next t => some t
  | .fault _ => none
  | .refused _ => none

/-- One step with the words `ws` at $1000, from the start state changed by `setup`. -/
def runs (ws : List Word) (setup : State → State) : Option State := nextOf (step (setup (put 0x1000 ws start)))

/-- The word in RAM at address `a`. -/
def word (t : State) (a : Nat) : Word := t.ramByte (a + 1) ++ t.ramByte a

-- The checks of Instr.wellFormed, each with a term it refuses and one it lets pass.

theorem test_wf_stoImmediate : (Instr.sto 0 (.imm 0x2000)).wellFormed = false := by decide
theorem test_wf_stoRegister : (Instr.sto 0 (.reg 1)).wellFormed = false := by decide
theorem test_wf_stoMemory : (Instr.sto 0 (.postInc 1)).wellFormed = true := by decide
theorem test_wf_sto8Immediate : (Instr.sto8 0 (.imm 0x20)).wellFormed = false := by decide
theorem test_wf_sto8Register : (Instr.sto8 0 (.reg 1)).wellFormed = false := by decide
theorem test_wf_sto8Memory : (Instr.sto8 0 (.abs 0x2000)).wellFormed = true := by decide
theorem test_wf_adiZero : (Instr.adi 3 0).wellFormed = false := by decide
theorem test_wf_adiOther : (Instr.adi 3 1).wellFormed = true := by decide
theorem test_wf_sbiZero : (Instr.sbi 3 0).wellFormed = false := by decide
theorem test_wf_sbiOther : (Instr.sbi 3 31).wellFormed = true := by decide
theorem test_wf_popPcAlone : (Instr.popSpecial 0b01000).wellFormed = false := by decide
theorem test_wf_popOther : (Instr.popSpecial 0b01001).wellFormed = true := by decide
theorem test_wf_hwqFour : (Instr.hwq 4).wellFormed = false := by decide
theorem test_wf_hwqFive : (Instr.hwq 5).wellFormed = true := by decide

-- A word of every instruction, written from the bit patterns of spec/30_encoding.md; the examples and vectors of the spec
-- give the same words. The words are in memory order: the next word follows the instruction word.

/-- The words `ws` are the instruction `i`. -/
abbrev Means (ws : List Word) (i : Instr) : Prop := decode (bytesOf ws) = .ok (i, [])

-- ALU (R112, R113, R125): `ADD R0, ...` in every addressing mode (spec/95_test_vectors.md 1.4).
theorem test_dec_modeImmediate : Means [0b000_00000_00010_000, 0x1234] (.add 0 (.imm 0x1234)) := by decide
theorem test_dec_modeAbsolute : Means [0b000_00001_00010_000, 0x1234] (.add 0 (.abs 0x1234)) := by decide
theorem test_dec_modeRegister : Means [0b000_00100_00010_001] (.add 0 (.reg 1)) := by decide
theorem test_dec_modeIndirect : Means [0b000_00100_00010_010] (.add 0 (.ind 1)) := by decide
theorem test_dec_modeOffset : Means [0b000_00100_00010_011, 0x1234] (.add 0 (.indOff 1 0x1234)) := by decide
theorem test_dec_modePostInc : Means [0b000_00100_00010_100] (.add 0 (.postInc 1)) := by decide
theorem test_dec_modePreDec : Means [0b000_00100_00010_101] (.add 0 (.preDec 1)) := by decide
theorem test_dec_modeIndexedLow : Means [0b000_00110_00010_110] (.add 0 (.indexed 1 2)) := by decide
theorem test_dec_modeIndexedHigh : Means [0b000_00110_00010_111] (.add 0 (.indexed 1 6)) := by decide


-- ALU, AL8: every operation (R112, R114, R120), register R7 or R1 first.
theorem test_dec_lod : Means [0b111_01000_00000_001] (.lod 7 (.reg 2)) := by decide
theorem test_dec_sto : Means [0b001_10100_00001_100] (.sto 1 (.postInc 5)) := by decide
theorem test_dec_add : Means [0b111_01000_00010_001] (.add 7 (.reg 2)) := by decide
theorem test_dec_sub : Means [0b111_01000_00011_001] (.sub 7 (.reg 2)) := by decide
theorem test_dec_adc : Means [0b111_01000_00100_001] (.adc 7 (.reg 2)) := by decide
theorem test_dec_sbc : Means [0b111_01000_00101_001] (.sbc 7 (.reg 2)) := by decide
theorem test_dec_mul : Means [0b111_01000_00110_001] (.mul 7 (.reg 2)) := by decide
theorem test_dec_div : Means [0b111_01000_00111_001] (.div 7 (.reg 2)) := by decide
theorem test_dec_mli : Means [0b111_01000_01000_001] (.mli 7 (.reg 2)) := by decide
theorem test_dec_dvi : Means [0b111_01000_01001_001] (.dvi 7 (.reg 2)) := by decide
theorem test_dec_mod : Means [0b111_01000_01010_001] (.mod 7 (.reg 2)) := by decide
theorem test_dec_mdi : Means [0b111_01000_01011_001] (.mdi 7 (.reg 2)) := by decide
theorem test_dec_and : Means [0b111_01000_01100_001] (.and 7 (.reg 2)) := by decide
theorem test_dec_orr : Means [0b111_01000_01101_001] (.orr 7 (.reg 2)) := by decide
theorem test_dec_eor : Means [0b111_01000_01110_001] (.eor 7 (.reg 2)) := by decide
theorem test_dec_not : Means [0b111_01000_01111_001] (.not 7 (.reg 2)) := by decide
theorem test_dec_cmp : Means [0b111_01000_10000_001] (.cmp 7 (.reg 2)) := by decide
theorem test_dec_neg : Means [0b111_01000_10001_001] (.neg 7 (.reg 2)) := by decide
theorem test_dec_lod8 : Means [0b000_00100_11010_101] (.lod8 0 (.preDec 1)) := by decide
theorem test_dec_sto8 : Means [0b000_00110_11011_110] (.sto8 0 (.indexed 1 2)) := by decide

-- STO and STO.8 in Immediate and Register mode (R134).
theorem test_dec_undefStoImm : Means [0b000_00000_00001_000] (.undefStoImm) := by decide
theorem test_dec_undefStoReg : Means [0b000_00100_00001_001] (.undefStoReg) := by decide
theorem test_dec_undefSto8Imm : Means [0b000_00000_11011_000] (.undefSto8Imm) := by decide
theorem test_dec_undefSto8Reg : Means [0b000_00100_11011_001] (.undefSto8Reg) := by decide

-- BRA (R116).
theorem test_dec_bcc : Means [0b00000100_10010000] (.bcc 4) := by decide
theorem test_dec_bcs : Means [0b00000100_10010001] (.bcs 4) := by decide
theorem test_dec_bne : Means [0b00000100_10010010] (.bne 4) := by decide
theorem test_dec_beq : Means [0b00000100_10010011] (.beq 4) := by decide
theorem test_dec_bpl : Means [0b00000100_10010100] (.bpl 4) := by decide
theorem test_dec_bmi : Means [0b00000100_10010101] (.bmi 4) := by decide
theorem test_dec_bvc : Means [0b00000100_10010110] (.bvc 4) := by decide
theorem test_dec_bvs : Means [0b00000100_10010111] (.bvs 4) := by decide
theorem test_dec_bug : Means [0b00000100_10011000] (.bug 4) := by decide
theorem test_dec_bsg : Means [0b00000100_10011001] (.bsg 4) := by decide
theorem test_dec_undefBranchA : Means [0b00000100_10011010] (.undefBranchA) := by decide
theorem test_dec_undefBranchB : Means [0b00000100_10011011] (.undefBranchB) := by decide
theorem test_dec_undefBranchC : Means [0b00000100_10011100] (.undefBranchC) := by decide
theorem test_dec_undefBranchD : Means [0b00000100_10011101] (.undefBranchD) := by decide
theorem test_dec_undefBranchE : Means [0b00000100_10011110] (.undefBranchE) := by decide
theorem test_dec_baw : Means [0b10000000_10011111] (.baw 0x80) := by decide

-- SHF and BTT: the count or bit number is a field or a register (R115, R129).
theorem test_dec_asl : Means [0b010_0_0001_10100000] (.asl 2 (.imm 1)) := by decide
theorem test_dec_lsl : Means [0b010_0_0010_10100001] (.lsl 2 (.imm 2)) := by decide
theorem test_dec_rol : Means [0b010_0_0011_10100010] (.rol 2 (.imm 3)) := by decide
theorem test_dec_rnl : Means [0b010_0_0100_10100011] (.rnl 2 (.imm 4)) := by decide
theorem test_dec_asr : Means [0b010_0_0101_10100100] (.asr 2 (.imm 5)) := by decide
theorem test_dec_lsr : Means [0b010_0_0110_10100101] (.lsr 2 (.imm 6)) := by decide
theorem test_dec_ror : Means [0b010_0_0111_10100110] (.ror 2 (.imm 7)) := by decide
theorem test_dec_rnr : Means [0b010_0_1000_10100111] (.rnr 2 (.imm 8)) := by decide
theorem test_dec_aslRegister : Means [0b000_1_0001_10100000] (.asl 0 (.reg 1)) := by decide
theorem test_dec_bit : Means [0b000_0_1111_10101000] (.bit 0 (.imm 15)) := by decide
theorem test_dec_btx : Means [0b000_0_1111_10101001] (.btx 0 (.imm 15)) := by decide
theorem test_dec_btc : Means [0b000_0_1111_10101010] (.btc 0 (.imm 15)) := by decide
theorem test_dec_bts : Means [0b000_0_1111_10101011] (.bts 0 (.imm 15)) := by decide
theorem test_dec_bitRegister : Means [0b000_1_1001_10101000] (.bit 0 (.reg 1)) := by decide

-- SWO, FPU, FLG (R116 to R118, R130).
theorem test_dec_swo : Means [0b001_000_10_10101100] (.swo 1 0 .lw) := by decide
theorem test_dec_fpa : Means [0b001_010_00_10101101] (.fpa 1 2) := by decide
theorem test_dec_fps : Means [0b001_010_01_10101101] (.fps 1 2) := by decide
theorem test_dec_fpm : Means [0b001_010_10_10101101] (.fpm 1 2) := by decide
theorem test_dec_fpd : Means [0b001_010_11_10101101] (.fpd 1 2) := by decide
theorem test_dec_sef : Means [0b1000_0000_10101110] (.sef 0b1000) := by decide
theorem test_dec_clf : Means [0b0011_0000_10101111] (.clf 0b0011) := by decide

-- STK (R127, R128): general register lists and special register lists.
theorem test_dec_pshGeneral : Means [0b10000001_10110000] (.pshGeneral 0b10000001) := by decide
theorem test_dec_pshSpecial : Means [0b000_01001_10110001] (.pshSpecial 0b01001) := by decide
theorem test_dec_popGeneral : Means [0b00000011_10110010] (.popGeneral 0b00000011) := by decide
theorem test_dec_popSpecial : Means [0b000_11111_10110011] (.popSpecial 0b11111) := by decide
theorem test_dec_rts : Means [0b000_01000_10110011] (.rts) := by decide

-- MIM, IMM, XSR and the undefined octets between them (R122, R123, R131, R134).
theorem test_dec_mim : Means [0b001_000_00_10110100] (.mim 1 0) := by decide
theorem test_dec_mia : Means [0b000_011_01_10110100] (.mia 3) := by decide
theorem test_dec_undefMim2 : Means [0b001_000_10_10110100] (.undefMim2) := by decide
theorem test_dec_undefMim3 : Means [0b001_000_11_10110100] (.undefMim3) := by decide
theorem test_dec_undefB5 : Means [0x00B5] (.undefB5) := by decide
theorem test_dec_undefB6 : Means [0x00B7] (.undefB6 1) := by decide
theorem test_dec_adi : Means [0b011_00100_10111000] (.adi 3 4) := by decide
theorem test_dec_sbi : Means [0b000_11111_10111001] (.sbi 0 31) := by decide
theorem test_dec_inc : Means [0b010_00000_10111000] (.inc 2) := by decide
theorem test_dec_dec : Means [0b010_00000_10111001] (.dec 2) := by decide
theorem test_dec_tsr : Means [0b001_00001_10111010] (.tsr 1 1) := by decide
theorem test_dec_trs : Means [0b010_00010_10111011] (.trs 2 2) := by decide
theorem test_dec_undefBC : Means [0x00BE] (.undefBC 2) := by decide

-- JMP format (R121, R126), JCX, HWQ, SLP, SWI, RTI, MMR, MMW and the undefined octets (R119, R124, R132, R134).
theorem test_dec_jmp : Means [0b110_001_10_11000000] (.jmp (.indexed 1 2)) := by decide
theorem test_dec_jsr : Means [0b000_000_00_11000001, 0x3000] (.jsr (.imm 0x3000)) := by decide
theorem test_dec_jmu : Means [0b001_001_00_11000010] (.jmu (.reg 1)) := by decide
theorem test_dec_jcx : Means [0x00C3] (.jcx) := by decide
theorem test_dec_hwqCount : Means [0x00C4] (.hwqCount) := by decide
theorem test_dec_hwqQuery : Means [0x01C4] (.hwqQuery) := by decide
theorem test_dec_hwqMessage : Means [0x02C4] (.hwqMessage) := by decide
theorem test_dec_hwqSetTick : Means [0x03C4] (.hwqSetTick) := by decide
theorem test_dec_hwqGetTime : Means [0x04C4] (.hwqGetTime) := by decide
theorem test_dec_hwq : Means [0xFFC4] (.hwq 0xFF) := by decide
theorem test_dec_slp : Means [0x00C5] (.slp) := by decide
theorem test_dec_swi : Means [0xFFC6] (.swi) := by decide
theorem test_dec_rti : Means [0x00C7] (.rti) := by decide
theorem test_dec_undefC8 : Means [0x12CB] (.undefC8 3) := by decide
theorem test_dec_mmr : Means [0b010_000_00_11001100] (.mmr 2 0) := by decide
theorem test_dec_mmw : Means [0b001_000_00_11001101] (.mmw 1 0) := by decide
theorem test_dec_mml : Means [0b001_000_00_11001110] (.mml (.reg 0)) := by decide
theorem test_dec_mms : Means [0b000_000_01_11001111, 0x2000] (.mms (.abs 0x2000)) := by decide
theorem test_dec_undefE0 : Means [0x12F1] (.undefE0 0x11) := by decide


-- ALU and AL8: spec/95_test_vectors.md, the rows named in the theorems.

theorem test_A3 : (runs [0x2404] fun s => s |> put 0x2000 [0xBEEF] |>.setReg 1 0x2000).map
    (fun t => (t.reg 1, t.fl, t.pc)) =
    some (0xBEEF, ⟨true, false, false, false⟩, 0x1002) := by decide
theorem test_A7 : (runs [0x0402] fun s => s |>.setBank 0 ⟨.ram, 0⟩ |> put 0xFFFF [0x1234] |>.setReg 1 0xFFFF
      |>.setPs (statusOf 0x90)).map
    (fun t => (t.reg 0, t.fl, t.pc)) =
    some (0x1234, ⟨false, false, false, false⟩, 0x1002) := by decide
theorem test_A8 : (runs [0x040A] fun s => s |>.setReg 0 0xABCD |>.setReg 1 0x2001).map
    (fun t => (t.fl, t.pc, word t 0x2001)) =
    some (⟨false, false, false, false⟩, 0x1002, 0xABCD) := by decide
theorem test_A9 : (runs [0x240C] fun s => s |>.setReg 1 0x2000).map
    (fun t => (t.reg 1, t.fl, t.pc, word t 0x2000)) =
    some (0x2002, ⟨false, false, false, false⟩, 0x1002, 0x2000) := by decide
theorem test_A12 : (runs [0x0008, 0x2000] fun s => s |> put 0x300E [0x4000] |>.setReg 0 0x5A5A
      |>.setPs (statusOf 0x80) |>.setIa 0x3000).map
    (fun t => (t.fl, t.pc, t.ssp, t.ramByte 0x7FFF, word t 0x7FFC)) =
    some (⟨false, false, false, false⟩, 0x4000, 0x7FFC, 0x80, 0x1000) := by decide
theorem test_A13 : (runs [0x0409] fun s => s |> put 0x300E [0x4000] |>.setReg 0 0x5A5A |>.setIa 0x3000).map
    (fun t => (t.fl, t.pc, t.ssp, t.ramByte 0x7FFF, word t 0x7FFC)) =
    some (⟨false, false, false, false⟩, 0x4000, 0x7FFC, 0x80, 0x1000) := by decide
theorem test_A14 : (runs [0x0411] fun s => s |>.setReg 0 0x7FFF |>.setReg 1 0x0001).map
    (fun t => (t.reg 0, t.fl, t.pc)) =
    some (0x8000, ⟨true, false, false, true⟩, 0x1002) := by decide
theorem test_A16 : (runs [0x0411] fun s => s |>.setReg 0 0x8000 |>.setReg 1 0x8000).map
    (fun t => (t.reg 0, t.fl, t.pc)) =
    some (0x0000, ⟨false, true, true, true⟩, 0x1002) := by decide
theorem test_A17 : (runs [0x0421] fun s => s |>.setReg 0 0xFFFF |>.setReg 1 0x0000 |>.setFl ⟨false, false, true,
      false⟩).map
    (fun t => (t.reg 0, t.fl, t.pc)) =
    some (0x0000, ⟨false, true, true, false⟩, 0x1002) := by decide
theorem test_A18 : (runs [0x0421] fun s => s |>.setReg 0 0x7FFF |>.setReg 1 0x0000 |>.setFl ⟨false, false, true,
      false⟩).map
    (fun t => (t.reg 0, t.fl, t.pc)) =
    some (0x8000, ⟨true, false, false, true⟩, 0x1002) := by decide
theorem test_A19 : (runs [0x0419] fun s => s |>.setReg 0 0x0003 |>.setReg 1 0x0005).map
    (fun t => (t.reg 0, t.fl, t.pc)) =
    some (0xFFFE, ⟨true, false, false, false⟩, 0x1002) := by decide
theorem test_A21 : (runs [0x0419] fun s => s |>.setReg 0 0x8000 |>.setReg 1 0x0001).map
    (fun t => (t.reg 0, t.fl, t.pc)) =
    some (0x7FFF, ⟨false, false, true, true⟩, 0x1002) := by decide
theorem test_A24 : (runs [0x0429] fun s => s |>.setReg 0 0x0005 |>.setReg 1 0x0003 |>.setFl ⟨false, false, true,
      false⟩).map
    (fun t => (t.reg 0, t.fl, t.pc)) =
    some (0x0002, ⟨false, false, true, false⟩, 0x1002) := by decide
theorem test_A25 : (runs [0x0429] fun s => s |>.setReg 0 0x0000 |>.setReg 1 0x0000 |>.setFl ⟨false, false, false,
      false⟩).map
    (fun t => (t.reg 0, t.fl, t.pc)) =
    some (0xFFFF, ⟨true, false, false, false⟩, 0x1002) := by decide
theorem test_A26 : (runs [0x0481] fun s => s |>.setReg 0 0x0005 |>.setReg 1 0x0005 |>.setFl ⟨false, false, false,
      true⟩).map
    (fun t => (t.fl, t.pc)) =
    some (⟨true, true, true, true⟩, 0x1002) := by decide
theorem test_A27 : (runs [0x0481] fun s => s |>.setReg 0 0x8000 |>.setReg 1 0x7FFF |>.setFl ⟨true, true, false,
      false⟩).map
    (fun t => (t.fl, t.pc)) =
    some (⟨false, false, true, false⟩, 0x1002) := by decide
theorem test_A29 : (runs [0x0489] fun s => s |>.setReg 0 0x5555 |>.setReg 1 0x0001).map
    (fun t => (t.reg 0, t.fl, t.pc)) =
    some (0xFFFF, ⟨true, false, false, false⟩, 0x1002) := by decide
theorem test_A30 : (runs [0x0089] fun s => s |>.setReg 0 0x8000).map
    (fun t => (t.fl, t.pc)) =
    some (⟨true, false, false, true⟩, 0x1002) := by decide
theorem test_A32 : (runs [0x2831] fun s => s |>.setReg 1 0x1234 |>.setReg 2 0x0100).map
    (fun t => (t.reg 0, t.reg 1, t.fl, t.pc)) =
    some (0x0012, 0x3400, ⟨false, false, true, false⟩, 0x1002) := by decide
theorem test_A33 : (runs [0x0431] fun s => s |>.setReg 0 0x1234 |>.setReg 1 0x0100).map
    (fun t => (t.reg 0, t.fl, t.pc)) =
    some (0x3400, ⟨false, false, true, false⟩, 0x1002) := by decide
theorem test_A36 : (runs [0x2841] fun s => s |>.setReg 1 0xFFFF |>.setReg 2 0x0002).map
    (fun t => (t.reg 0, t.reg 1, t.fl, t.pc)) =
    some (0xFFFF, 0xFFFE, ⟨true, false, true, false⟩, 0x1002) := by decide
theorem test_A37 : (runs [0x2841] fun s => s |>.setReg 1 0x8000 |>.setReg 2 0x8000).map
    (fun t => (t.reg 0, t.reg 1, t.fl, t.pc)) =
    some (0x4000, 0x0000, ⟨false, false, true, false⟩, 0x1002) := by decide
theorem test_A39 : (runs [0x2839] fun s => s |>.setReg 1 0xFFFF |>.setReg 2 0x0010 |>.setFl ⟨true, false, true,
      true⟩).map
    (fun t => (t.reg 1, t.fl, t.pc)) =
    some (0x0FFF, ⟨false, false, true, true⟩, 0x1002) := by decide
theorem test_A41 : (runs [0x2839] fun s => s |> put 0x3004 [0x4000] |>.setReg 1 0x0005 |>.setReg 2 0x0000
      |>.setFl ⟨true, true, true, true⟩ |>.setIa 0x3000).map
    (fun t => (t.fl, t.pc, t.ssp, t.ramByte 0x7FFF, word t 0x7FFC)) =
    some (⟨true, true, true, true⟩, 0x4000, 0x7FFC, 0x80, 0x1000) := by decide
theorem test_A43 : (runs [0x2849] fun s => s |>.setReg 1 0xFFF9 |>.setReg 2 0x0002).map
    (fun t => (t.reg 1, t.fl, t.pc)) =
    some (0xFFFD, ⟨true, false, false, false⟩, 0x1002) := by decide
theorem test_A44 : (runs [0x2849] fun s => s |>.setReg 1 0x8000 |>.setReg 2 0xFFFF).map
    (fun t => (t.fl, t.pc)) =
    some (⟨true, false, false, true⟩, 0x1002) := by decide
theorem test_A46 : (runs [0x2851] fun s => s |>.setReg 1 0xFFFF |>.setReg 2 0x0007).map
    (fun t => (t.reg 1, t.fl, t.pc)) =
    some (0x0001, ⟨false, false, false, false⟩, 0x1002) := by decide
theorem test_A47 : (runs [0x2859] fun s => s |>.setReg 1 0xFFF9 |>.setReg 2 0x0002).map
    (fun t => (t.reg 1, t.fl, t.pc)) =
    some (0xFFFF, ⟨true, false, false, false⟩, 0x1002) := by decide
theorem test_A48 : (runs [0x2859] fun s => s |>.setReg 1 0x0007 |>.setReg 2 0xFFFE).map
    (fun t => (t.reg 1, t.fl, t.pc)) =
    some (0x0001, ⟨false, false, false, false⟩, 0x1002) := by decide
theorem test_A50 : (runs [0x0060, 0x0F0F] fun s => s |>.setReg 0 0xF0F0).map
    (fun t => (t.reg 0, t.fl, t.pc)) =
    some (0x0000, ⟨false, true, false, false⟩, 0x1004) := by decide
theorem test_A51 : (runs [0x0469] fun s => s |>.setReg 0 0x00F0 |>.setReg 1 0x8001).map
    (fun t => (t.reg 0, t.fl, t.pc)) =
    some (0x80F1, ⟨true, false, false, false⟩, 0x1002) := by decide
theorem test_A52 : (runs [0x0071] fun s => s |>.setReg 0 0x1234 |>.setFl ⟨true, false, true, true⟩).map
    (fun t => (t.reg 0, t.fl, t.pc)) =
    some (0x0000, ⟨false, true, true, true⟩, 0x1002) := by decide
theorem test_A53 : (runs [0x0479] fun s => s |>.setReg 0 0x1111 |>.setReg 1 0x00FF).map
    (fun t => (t.reg 0, t.fl, t.pc)) =
    some (0xFF00, ⟨true, false, false, false⟩, 0x1002) := by decide
theorem test_A54 : (runs [0x04D4] fun s => s |> putByte 0x2001 0x80 |>.setReg 0 0xFFFF |>.setReg 1 0x2001).map
    (fun t => (t.reg 0, t.reg 1, t.fl, t.pc)) =
    some (0x0080, 0x2002, ⟨true, false, false, false⟩, 0x1002) := by decide
theorem test_A56 : (runs [0x04D1] fun s => s |>.setReg 0 0xFFFF |>.setReg 1 0xAB00).map
    (fun t => (t.reg 0, t.fl, t.pc)) =
    some (0x0000, ⟨false, true, false, false⟩, 0x1002) := by decide
theorem test_A58 : (runs [0x04DA] fun s => s |> put 0x2000 [0x5566] |>.setReg 0 0x12AB |>.setReg 1 0x2001).map
    (fun t => (t.fl, t.pc, t.ramByte 0x2001)) =
    some (⟨false, false, false, false⟩, 0x1002, 0xAB) := by decide
theorem test_A59 : (runs [0x04DC] fun s => s |> put 0x2000 [0x5566] |>.setReg 0 0x00EE |>.setReg 1 0x2000).map
    (fun t => (t.reg 1, t.fl, t.pc, t.ramByte 0x2000)) =
    some (0x2001, ⟨false, false, false, false⟩, 0x1002, 0xEE) := by decide
theorem test_A60 : (runs [0x04D9] fun s => s |> put 0x300E [0x4000] |>.setIa 0x3000).map
    (fun t => (t.fl, t.pc, t.ssp, t.ramByte 0x7FFF, word t 0x7FFC)) =
    some (⟨false, false, false, false⟩, 0x4000, 0x7FFC, 0x80, 0x1000) := by decide

-- Shifts: spec/95_test_vectors.md, the rows named in the theorems.

theorem test_S1 : (runs [0x08A0] fun s => s |>.setReg 0 0x1234).map
    (fun t => (t.reg 0, t.fl, t.pc)) =
    some (0x3400, ⟨false, false, true, false⟩, 0x1002) := by decide
theorem test_S3 : (runs [0x11A0] fun s => s |>.setReg 0 0x0001 |>.setReg 1 0xFFF4).map
    (fun t => (t.reg 0, t.fl, t.pc)) =
    some (0x0010, ⟨false, false, false, false⟩, 0x1002) := by decide
theorem test_S5 : (runs [0x04A1] fun s => s |>.setReg 0 0x0FFF).map
    (fun t => (t.reg 0, t.fl, t.pc)) =
    some (0xFFF0, ⟨true, false, false, false⟩, 0x1002) := by decide
theorem test_S6 : (runs [0x01A4] fun s => s |>.setReg 0 0x8001).map
    (fun t => (t.reg 0, t.fl, t.pc)) =
    some (0xC000, ⟨true, false, true, false⟩, 0x1002) := by decide
theorem test_S7 : (runs [0x04A4] fun s => s |>.setReg 0 0xFFF0).map
    (fun t => (t.reg 0, t.fl, t.pc)) =
    some (0xFFFF, ⟨true, false, false, true⟩, 0x1002) := by decide
theorem test_S10 : (runs [0x01A5] fun s => s |>.setReg 0 0x8001).map
    (fun t => (t.reg 0, t.fl, t.pc)) =
    some (0x4000, ⟨false, false, true, false⟩, 0x1002) := by decide
theorem test_S12 : (runs [0x04A2] fun s => s |>.setReg 0 0x1234 |>.setFl ⟨false, false, true, false⟩).map
    (fun t => (t.reg 0, t.fl, t.pc)) =
    some (0x2348, ⟨false, false, true, false⟩, 0x1002) := by decide
theorem test_S14 : (runs [0x00A2] fun s => s |>.setReg 0 0x0000 |>.setFl ⟨true, false, true, false⟩).map
    (fun t => (t.fl, t.pc)) =
    some (⟨false, true, true, false⟩, 0x1002) := by decide
theorem test_S15 : (runs [0x04A6] fun s => s |>.setReg 0 0x1234 |>.setFl ⟨false, false, true, false⟩).map
    (fun t => (t.reg 0, t.fl, t.pc)) =
    some (0x9123, ⟨true, false, false, false⟩, 0x1002) := by decide
theorem test_S16 : (runs [0x01A6] fun s => s |>.setReg 0 0x0001).map
    (fun t => (t.reg 0, t.fl, t.pc)) =
    some (0x0000, ⟨false, true, true, false⟩, 0x1002) := by decide
theorem test_S17 : (runs [0x04A3] fun s => s |>.setReg 0 0x1234 |>.setFl ⟨false, false, true, false⟩).map
    (fun t => (t.reg 0, t.fl, t.pc)) =
    some (0x2341, ⟨false, false, true, false⟩, 0x1002) := by decide
theorem test_S18 : (runs [0x04A7] fun s => s |>.setReg 0 0x1234).map
    (fun t => (t.reg 0, t.fl, t.pc)) =
    some (0x4123, ⟨false, false, false, false⟩, 0x1002) := by decide
theorem test_S19 : (runs [0x01A7] fun s => s |>.setReg 0 0x0001).map
    (fun t => (t.reg 0, t.fl, t.pc)) =
    some (0x8000, ⟨true, false, false, false⟩, 0x1002) := by decide
theorem test_S20 : (runs [0x10A5] fun s => s |>.setReg 0 0x8003).map
    (fun t => (t.reg 0, t.fl, t.pc)) =
    some (0x1000, ⟨false, false, true, false⟩, 0x1002) := by decide

-- Bit tests: spec/95_test_vectors.md, the rows named in the theorems.

theorem test_B1 : (runs [0x03A8] fun s => s |>.setReg 0 0x0008 |>.setFl ⟨true, true, true, false⟩).map
    (fun t => (t.fl, t.pc)) =
    some (⟨true, false, true, false⟩, 0x1002) := by decide
theorem test_B2 : (runs [0x03A8] fun s => s |>.setReg 0 0xFFF7).map
    (fun t => (t.fl, t.pc)) =
    some (⟨false, true, false, false⟩, 0x1002) := by decide
theorem test_B3 : (runs [0x00A9] fun s => s |>.setReg 0 0x0000).map
    (fun t => (t.reg 0, t.fl, t.pc)) =
    some (0x0001, ⟨false, true, true, false⟩, 0x1002) := by decide
theorem test_B4 : (runs [0x00A9] fun s => s |>.setReg 0 0x0001 |>.setFl ⟨false, true, true, false⟩).map
    (fun t => (t.reg 0, t.fl, t.pc)) =
    some (0x0000, ⟨false, false, false, false⟩, 0x1002) := by decide
theorem test_B5 : (runs [0x0FAA] fun s => s |>.setReg 0 0x8000).map
    (fun t => (t.reg 0, t.fl, t.pc)) =
    some (0x0000, ⟨false, false, true, false⟩, 0x1002) := by decide
theorem test_B6 : (runs [0x0FAA] fun s => s |>.setReg 0 0x0000 |>.setFl ⟨false, false, true, false⟩).map
    (fun t => (t.fl, t.pc)) =
    some (⟨false, true, false, false⟩, 0x1002) := by decide
theorem test_B7 : (runs [0x04AB] fun s => s |>.setReg 0 0x0000).map
    (fun t => (t.reg 0, t.fl, t.pc)) =
    some (0x0010, ⟨false, true, true, false⟩, 0x1002) := by decide
theorem test_B9 : (runs [0x11AB] fun s => s |>.setReg 0 0x0000 |>.setReg 1 0x001F).map
    (fun t => (t.reg 0, t.fl, t.pc)) =
    some (0x8000, ⟨false, true, true, false⟩, 0x1002) := by decide

-- Branches: spec/95_test_vectors.md, the rows named in the theorems.

theorem test_J0a : (runs [0x0490] fun s => s |>.setFl ⟨false, false, false, false⟩).map
    (fun t => (t.fl, t.pc)) =
    some (⟨false, false, false, false⟩, 0x1008) := by decide
theorem test_J0b : (runs [0x0490] fun s => s |>.setFl ⟨false, false, true, false⟩).map
    (fun t => (t.fl, t.pc)) =
    some (⟨false, false, true, false⟩, 0x1002) := by decide
theorem test_J1a : (runs [0x0491] fun s => s |>.setFl ⟨false, false, true, false⟩).map
    (fun t => (t.fl, t.pc)) =
    some (⟨false, false, true, false⟩, 0x1008) := by decide
theorem test_J1b : (runs [0x0491] fun s => s |>.setFl ⟨false, false, false, false⟩).map
    (fun t => (t.fl, t.pc)) =
    some (⟨false, false, false, false⟩, 0x1002) := by decide
theorem test_J2a : (runs [0x0492] fun s => s |>.setFl ⟨false, false, false, false⟩).map
    (fun t => (t.fl, t.pc)) =
    some (⟨false, false, false, false⟩, 0x1008) := by decide
theorem test_J2b : (runs [0x0492] fun s => s |>.setFl ⟨false, true, false, false⟩).map
    (fun t => (t.fl, t.pc)) =
    some (⟨false, true, false, false⟩, 0x1002) := by decide
theorem test_J3a : (runs [0x0493] fun s => s |>.setFl ⟨false, true, false, false⟩).map
    (fun t => (t.fl, t.pc)) =
    some (⟨false, true, false, false⟩, 0x1008) := by decide
theorem test_J3b : (runs [0x0493] fun s => s |>.setFl ⟨false, false, false, false⟩).map
    (fun t => (t.fl, t.pc)) =
    some (⟨false, false, false, false⟩, 0x1002) := by decide
theorem test_J4a : (runs [0x0494] fun s => s |>.setFl ⟨false, false, false, false⟩).map
    (fun t => (t.fl, t.pc)) =
    some (⟨false, false, false, false⟩, 0x1008) := by decide
theorem test_J4b : (runs [0x0494] fun s => s |>.setFl ⟨true, false, false, false⟩).map
    (fun t => (t.fl, t.pc)) =
    some (⟨true, false, false, false⟩, 0x1002) := by decide
theorem test_J5a : (runs [0x0495] fun s => s |>.setFl ⟨true, false, false, false⟩).map
    (fun t => (t.fl, t.pc)) =
    some (⟨true, false, false, false⟩, 0x1008) := by decide
theorem test_J5b : (runs [0x0495] fun s => s |>.setFl ⟨false, false, false, false⟩).map
    (fun t => (t.fl, t.pc)) =
    some (⟨false, false, false, false⟩, 0x1002) := by decide
theorem test_J6a : (runs [0x0496] fun s => s |>.setFl ⟨false, false, false, false⟩).map
    (fun t => (t.fl, t.pc)) =
    some (⟨false, false, false, false⟩, 0x1008) := by decide
theorem test_J6b : (runs [0x0496] fun s => s |>.setFl ⟨false, false, false, true⟩).map
    (fun t => (t.fl, t.pc)) =
    some (⟨false, false, false, true⟩, 0x1002) := by decide
theorem test_J7a : (runs [0x0497] fun s => s |>.setFl ⟨false, false, false, true⟩).map
    (fun t => (t.fl, t.pc)) =
    some (⟨false, false, false, true⟩, 0x1008) := by decide
theorem test_J7b : (runs [0x0497] fun s => s |>.setFl ⟨false, false, false, false⟩).map
    (fun t => (t.fl, t.pc)) =
    some (⟨false, false, false, false⟩, 0x1002) := by decide
theorem test_J8a : (runs [0x0498] fun s => s |>.setFl ⟨false, false, true, false⟩).map
    (fun t => (t.fl, t.pc)) =
    some (⟨false, false, true, false⟩, 0x1008) := by decide
theorem test_J8b : (runs [0x0498] fun s => s |>.setFl ⟨false, true, true, false⟩).map
    (fun t => (t.fl, t.pc)) =
    some (⟨false, true, true, false⟩, 0x1002) := by decide
theorem test_J9a : (runs [0x0499] fun s => s |>.setFl ⟨true, false, false, false⟩).map
    (fun t => (t.fl, t.pc)) =
    some (⟨true, false, false, false⟩, 0x1008) := by decide
theorem test_J9b : (runs [0x0499] fun s => s |>.setFl ⟨true, true, false, false⟩).map
    (fun t => (t.fl, t.pc)) =
    some (⟨true, true, false, false⟩, 0x1002) := by decide
theorem test_J12 : (runs [0x809F] fun s => s).map
    (fun t => (t.fl, t.pc)) =
    some (⟨false, false, false, false⟩, 0x0F00) := by decide
theorem test_J15 : (runs [0x7F9F] fun s => s).map
    (fun t => (t.fl, t.pc)) =
    some (⟨false, false, false, false⟩, 0x10FE) := by decide
theorem test_J16 : (runs [0x049A] fun s => s |> put 0x300E [0x4000] |>.setFl ⟨true, true, true, true⟩
      |>.setIa 0x3000).map
    (fun t => (t.fl, t.pc, t.ssp, t.ramByte 0x7FFF, word t 0x7FFC)) =
    some (⟨true, true, true, true⟩, 0x4000, 0x7FFC, 0x80, 0x1000) := by decide

-- Floating point: spec/95_test_vectors.md, the rows named in the theorems.

theorem test_F1 : (runs [0x28AD] fun s => s |> put 0x2000 [0x0000, 0x3FC0, 0x0000, 0x4010] |>.setReg 1 0x2000
      |>.setReg 2 0x2004).map
    (fun t => (t.fl, t.pc, t.ssp, word t 0x7FFE, word t 0x7FFC)) =
    some (⟨false, false, false, false⟩, 0x1002, 0x7FFC, 0x4070, 0x0000) := by decide
theorem test_F2 : (runs [0x29AD] fun s => s |> put 0x2000 [0x0000, 0x3FC0, 0x0000, 0x4010] |>.setReg 1 0x2000
      |>.setReg 2 0x2004).map
    (fun t => (t.fl, t.pc, t.ssp, word t 0x7FFE, word t 0x7FFC)) =
    some (⟨true, false, false, false⟩, 0x1002, 0x7FFC, 0xBF40, 0x0000) := by decide
theorem test_F3 : (runs [0x2AAD] fun s => s |> put 0x2000 [0x0000, 0x3FC0, 0x0000, 0x4010] |>.setReg 1 0x2000
      |>.setReg 2 0x2004).map
    (fun t => (t.fl, t.pc, t.ssp, word t 0x7FFE, word t 0x7FFC)) =
    some (⟨false, false, false, false⟩, 0x1002, 0x7FFC, 0x4058, 0x0000) := by decide
theorem test_F4 : (runs [0x2BAD] fun s => s |> put 0x2000 [0x0000, 0x4040, 0x0000, 0x4000] |>.setReg 1 0x2000
      |>.setReg 2 0x2004).map
    (fun t => (t.fl, t.pc, t.ssp, word t 0x7FFE, word t 0x7FFC)) =
    some (⟨false, false, false, false⟩, 0x1002, 0x7FFC, 0x3FC0, 0x0000) := by decide
theorem test_F5 : (runs [0x25AD] fun s => s |> put 0x2000 [0x0000, 0x3FC0, 0x0000, 0x4010] |>.setReg 1 0x2000
      |>.setFl ⟨true, false, true, true⟩).map
    (fun t => (t.fl, t.pc, t.ssp, word t 0x7FFE, word t 0x7FFC)) =
    some (⟨false, true, true, true⟩, 0x1002, 0x7FFC, 0x0000, 0x0000) := by decide
theorem test_F6 : (runs [0x2BAD] fun s => s |> put 0x2000 [0x0000, 0x4040, 0xFFFF, 0x807F] |> put 0x3006 [0x4000]
      |>.setReg 1 0x2000 |>.setReg 2 0x2004 |>.setFl ⟨true, false, false, true⟩ |>.setIa 0x3000).map
    (fun t => (t.fl, t.pc, t.ssp, t.ramByte 0x7FFF, word t 0x7FFC)) =
    some (⟨false, false, true, false⟩, 0x4000, 0x7FFC, 0x80, 0x1000) := by decide
theorem test_F7 : (runs [0x28AD] fun s => s |> put 0x2000 [0x0000, 0x7F80, 0x0000, 0x3F80] |> put 0x3006 [0x4000]
      |>.setReg 1 0x2000 |>.setReg 2 0x2004 |>.setFl ⟨true, true, true, true⟩ |>.setIa 0x3000).map
    (fun t => (t.fl, t.pc, t.ssp, t.ramByte 0x7FFF, word t 0x7FFC)) =
    some (⟨false, false, false, false⟩, 0x4000, 0x7FFC, 0x80, 0x1000) := by decide
theorem test_F8 : (runs [0x2AAD] fun s => s |> put 0x2000 [0x1234, 0x0012, 0x0000, 0x4000] |>.setReg 1 0x2000
      |>.setReg 2 0x2004).map
    (fun t => (t.fl, t.pc, t.ssp, word t 0x7FFE, word t 0x7FFC)) =
    some (⟨false, true, false, false⟩, 0x1002, 0x7FFC, 0x0000, 0x0000) := by decide

-- Immediates: spec/95_test_vectors.md, the rows named in the theorems.

theorem test_I2 : (runs [0x1FB8] fun s => s |>.setReg 0 0x7FF0).map
    (fun t => (t.reg 0, t.fl, t.pc)) =
    some (0x8010, ⟨true, false, false, true⟩, 0x1002) := by decide
theorem test_I3 : (runs [0x64B8] fun s => s |>.setReg 3 0x0010 |>.setFl ⟨true, true, true, true⟩).map
    (fun t => (t.reg 3, t.fl, t.pc)) =
    some (0x0015, ⟨false, false, false, false⟩, 0x1002) := by decide
theorem test_I4 : (runs [0x00B9] fun s => s |>.setReg 0 0x0000).map
    (fun t => (t.reg 0, t.fl, t.pc)) =
    some (0xFFFF, ⟨true, false, false, false⟩, 0x1002) := by decide
theorem test_I6 : (runs [0x1FB9] fun s => s |>.setReg 0 0x8010).map
    (fun t => (t.reg 0, t.fl, t.pc)) =
    some (0x7FF0, ⟨false, false, true, true⟩, 0x1002) := by decide
theorem test_I7 : (runs [0x40B8] fun s => s |>.setReg 2 0x7FFF).map
    (fun t => (t.reg 2, t.fl, t.pc)) =
    some (0x8000, ⟨true, false, false, true⟩, 0x1002) := by decide
theorem test_I8 : (runs [0x40B9] fun s => s |>.setReg 2 0x8000).map
    (fun t => (t.reg 2, t.fl, t.pc)) =
    some (0x7FFF, ⟨false, false, true, true⟩, 0x1002) := by decide

-- Interrupt instructions: spec/95_test_vectors.md, the rows named in the theorems.

theorem test_T1 : (runs [0x00C6] fun s => s |> put 0x301E [0x4000] |>.setPs (statusOf 0x20) |>.setIa 0x3000).map
    (fun t => ((t.fl, statusByte t.ps, t.pc, t.ssp), (t.ramByte 0x7FFF, word t 0x7FFC))) =
    some ((⟨false, false, false, false⟩, 0xA0, 0x4000, 0x7FFC), (0x20, 0x1002)) := by decide
theorem test_T2 : (runs [0x00C6] fun s => s |>.setPs (statusOf 0x00) |>.setIa 0x3000).map
    (fun t => (t.fl, t.pc)) =
    some (⟨false, false, false, false⟩, 0x1002) := by decide
theorem test_T4 : (runs [0x00C7] fun s => s |> put 0x7FFC [0x1236, 0x2C00] |>.setSsp 0x7FFC).map
    (fun t => (t.fl, statusByte t.ps, t.pc, t.ssp)) =
    some (⟨false, false, false, false⟩, 0x20, 0x1236, 0x8000) := by decide
theorem test_T6 : (runs [0x00C7] fun s => s |> put 0x7FFC [0x2001, 0xAF00] |>.setPs (statusOf 0x88)
      |>.setSsp 0x7FFC).map
    (fun t => (t.fl, statusByte t.ps, t.pc, t.ssp)) =
    some (⟨false, false, false, false⟩, 0xA0, 0x2001, 0x8000) := by decide

-- Jumps and calls: spec/95_test_vectors.md, the rows named in the theorems.

theorem test_C2 : (runs [0x01C0, 0x2000] fun s => s |> put 0x2000 [0x3000]).map
    (fun t => (t.fl, t.pc)) =
    some (⟨false, false, false, false⟩, 0x3000) := by decide
theorem test_C8 : (runs [0xC6C0] fun s => s |> put 0x2020 [0x3000] |>.setReg 1 0x2000 |>.setReg 2 0x0020).map
    (fun t => (t.fl, t.pc)) =
    some (⟨false, false, false, false⟩, 0x3000) := by decide
theorem test_C10 : (runs [0x00C1, 0x3000] fun s => s).map
    (fun t => (t.fl, t.pc, t.ssp, word t 0x7FFE)) =
    some (⟨false, false, false, false⟩, 0x3000, 0x7FFE, 0x1004) := by decide
theorem test_C11 : (runs [0x24C1] fun s => s |>.setReg 1 0x3000 |>.setPs (statusOf 0x00)).map
    (fun t => (t.fl, t.pc, t.usp, word t 0x6FFE)) =
    some (⟨false, false, false, false⟩, 0x3000, 0x6FFE, 0x1002) := by decide
theorem test_C12 : (runs [0x08B3] fun s => s |> put 0x7FFE [0x1004] |>.setSsp 0x7FFE).map
    (fun t => (t.fl, t.pc, t.ssp)) =
    some (⟨false, false, false, false⟩, 0x1004, 0x8000) := by decide
theorem test_C13 : (runs [0x00C2, 0x2000] fun s => s |>.setPs (statusOf 0xA0)).map
    (fun t => (t.fl, statusByte t.ps, t.pc)) =
    some (⟨false, false, false, false⟩, 0x20, 0x2000) := by decide
theorem test_C14 : (runs [0x00C2, 0x2000] fun s => s |> put 0x300C [0x4000] |>.setPs (statusOf 0x20)
      |>.setIa 0x3000).map
    (fun t => ((t.fl, statusByte t.ps, t.pc, t.ssp), (t.ramByte 0x7FFF, word t 0x7FFC))) =
    some ((⟨false, false, false, false⟩, 0xA0, 0x4000, 0x7FFC), (0x20, 0x1000)) := by decide
theorem test_C15 : (runs [0x00C3] fun s => s |> put 0x2000 (List.range 32
      |>.map fun i => BitVec.ofNat 16 (0x0300 + i)) |> put 0x7FE8 [0x2000, 0x1117, 0x1116, 0x1115, 0x1114, 0x1113,
      0x1112, 0x1111, 0x1110, 0x5000, 0x1236, 0x6000] |>.setSsp 0x7FE8).map
    (fun t => ((t.reg 0, t.reg 7, t.fl, statusByte t.ps), (t.pc, t.ssp, t.mmuWord 0, t.mmuWord 31))) =
    some ((0x1110, 0x1117, ⟨false, true, false, true⟩, 0x60), (0x1236, 0x8000, 0x0300, 0x031F)) := by decide +kernel
theorem test_C16 : (runs [0x00C3] fun s => s |> put 0x300C [0x4000] |>.setPs (statusOf 0x20) |>.setIa 0x3000).map
    (fun t => ((t.fl, statusByte t.ps, t.pc, t.ssp), (t.ramByte 0x7FFF, word t 0x7FFC))) =
    some ((⟨false, false, false, false⟩, 0xA0, 0x4000, 0x7FFC), (0x20, 0x1000)) := by decide

-- PSH, POP, RTS: spec/95_test_vectors.md, the rows named in the theorems.

theorem test_K1 : (runs [0x03B0] fun s => s |>.setReg 0 0x1111 |>.setReg 1 0x2222).map
    (fun t => (t.fl, t.pc, t.ssp, word t 0x7FFE, word t 0x7FFC)) =
    some (⟨false, false, false, false⟩, 0x1002, 0x7FFC, 0x1111, 0x2222) := by decide
theorem test_K3 : (runs [0x09B1] fun s => s).map
    (fun t => (t.fl, t.pc, t.ssp, word t 0x7FFE, word t 0x7FFC)) =
    some (⟨false, false, false, false⟩, 0x1002, 0x7FFC, 0x8000, 0x1002) := by decide
theorem test_K5 : (runs [0x03B1] fun s => s).map
    (fun t => (t.fl, t.pc, t.ssp, word t 0x7FFE, word t 0x7FFC)) =
    some (⟨false, false, false, false⟩, 0x1002, 0x7FFC, 0x8000, 0x7000) := by decide
theorem test_K8 : (runs [0x03B2] fun s => s |> put 0x8000 [0xAAAA, 0xBBBB]).map
    (fun t => (t.reg 0, t.reg 1, t.fl, t.pc, t.ssp)) =
    some (0xBBBB, 0xAAAA, ⟨false, false, false, false⟩, 0x1002, 0x8004) := by decide
theorem test_K11 : (runs [0x1FB3] fun s => s |> put 0x8000 [0xF000, 0x2000, 0xA000, 0x6000, 0x9000]).map
    (fun t => (t.fl, statusByte t.ps, t.pc, t.ssp, t.usp)) =
    some (⟨true, true, true, true⟩, 0xA0, 0x2000, 0x9000, 0x6000) := by decide
theorem test_K13 : (runs [0x14B3] fun s => s |> put 0x300C [0x4000] |> put 0x7000 [0xC000] |>.setPs (statusOf 0x00)
      |>.setIa 0x3000).map
    (fun t => ((t.fl, statusByte t.ps, t.pc, t.ssp), (t.usp, t.ramByte 0x7FFF, word t 0x7FFC))) =
    some ((⟨true, true, false, false⟩, 0x80, 0x4000, 0x7FFC), (0x7002, 0x00, 0x1000)) := by decide
theorem test_K14 : (runs [0xFFB0] fun s => s |>.setReg 0 0x1110 |>.setReg 1 0x1111 |>.setReg 2 0x1112
      |>.setReg 3 0x1113 |>.setReg 4 0x1114 |>.setReg 5 0x1115 |>.setReg 6 0x1116 |>.setReg 7 0x1117).map
    (fun t => ((t.fl, t.pc, t.ssp, word t 0x7FFE), (word t 0x7FFC, word t 0x7FFA, word t 0x7FF8, word t 0x7FF6),
      (word t 0x7FF4, word t 0x7FF2, word t 0x7FF0))) =
    some ((⟨false, false, false, false⟩, 0x1002, 0x7FF0, 0x1110), (0x1111, 0x1112, 0x1113, 0x1114), (0x1115, 0x1116,
      0x1117)) := by decide

-- The processor instructions: spec/95_test_vectors.md, the rows named in the theorems.

theorem test_P1 : (runs [0x20AF] fun s => s |>.setFl ⟨true, true, true, true⟩).map
    (fun t => (t.fl, t.pc)) =
    some (⟨true, true, false, true⟩, 0x1002) := by decide
theorem test_P2 : (runs [0xF0AF] fun s => s |>.setFl ⟨true, true, true, true⟩).map
    (fun t => (t.fl, t.pc)) =
    some (⟨false, false, false, false⟩, 0x1002) := by decide
theorem test_P3 : (runs [0x20AE] fun s => s).map
    (fun t => (t.fl, t.pc)) =
    some (⟨false, false, true, false⟩, 0x1002) := by decide
theorem test_P4 : (runs [0xC0AE] fun s => s |>.setFl ⟨false, false, false, true⟩).map
    (fun t => (t.fl, t.pc)) =
    some (⟨true, true, false, true⟩, 0x1002) := by decide
theorem test_P6 : (runs [0x21AC] fun s => s |>.setReg 0 0x1234 |>.setReg 1 0xABCD |>.setFl ⟨false, true, false,
      true⟩).map
    (fun t => (t.reg 1, t.fl, t.pc)) =
    some (0x0012, ⟨false, true, false, true⟩, 0x1002) := by decide
theorem test_P8 : (runs [0x23AC] fun s => s |>.setReg 0 0x1234 |>.setReg 1 0xABCD |>.setFl ⟨false, true, false,
      true⟩).map
    (fun t => (t.reg 1, t.fl, t.pc)) =
    some (0x34CD, ⟨false, true, false, true⟩, 0x1002) := by decide
theorem test_P11 : (runs [0x21BA] fun s => s |>.setPs (statusOf 0x00)).map
    (fun t => (t.reg 1, t.fl, t.pc)) =
    some (0x7000, ⟨false, false, false, false⟩, 0x1002) := by decide
theorem test_P12 : (runs [0x00BA] fun s => s).map
    (fun t => (t.reg 0, t.fl, t.pc)) =
    some (0x1002, ⟨false, false, false, false⟩, 0x1002) := by decide
theorem test_P17 : (runs [0x01BB] fun s => s |>.setReg 0 0x6000 |>.setPs (statusOf 0x00)).map
    (fun t => (t.fl, t.pc, t.usp)) =
    some (⟨false, false, false, false⟩, 0x1002, 0x6000) := by decide
theorem test_P18 : (runs [0x04BB] fun s => s |>.setReg 0 0xA000).map
    (fun t => (t.fl, statusByte t.ps, t.pc)) =
    some (⟨false, false, false, false⟩, 0xA0, 0x1002) := by decide
theorem test_P23 : (runs [0x00C5] fun s => s).map
    (fun t => (t.fl, t.pc, t.halted)) =
    some (⟨false, false, false, false⟩, 0x1002, true) := by decide
theorem test_P24 : (runs [0x00C5] fun s => s |> put 0x300C [0x4000] |>.setPs (statusOf 0x20) |>.setIa 0x3000).map
    (fun t => ((t.fl, statusByte t.ps, t.pc, t.ssp), (t.ramByte 0x7FFF, word t 0x7FFC))) =
    some ((⟨false, false, false, false⟩, 0xA0, 0x4000, 0x7FFC), (0x20, 0x1000)) := by decide
theorem test_P25 : (runs [0x20B4] fun s => s |>.setReg 0 0x000E |>.setReg 1 0x0005).map
    (fun t => (t.fl, t.pc, t.bank 5)) =
    some (⟨false, false, false, false⟩, 0x1002, ⟨.ram, 14⟩) := by decide
theorem test_P26 : (runs [0x20B4] fun s => s |>.setReg 0 0x800E |>.setReg 1 0xFFF5).map
    (fun t => (t.fl, t.pc, t.bank 5)) =
    some (⟨false, false, false, false⟩, 0x1002, ⟨.rom, 0⟩) := by decide
theorem test_P28 : (runs [0x22B4] fun s => s |> put 0x300E [0x4000] |>.setIa 0x3000).map
    (fun t => (t.fl, t.pc, t.ssp, t.ramByte 0x7FFF, word t 0x7FFC)) =
    some (⟨false, false, false, false⟩, 0x4000, 0x7FFC, 0x80, 0x1000) := by decide
theorem test_P29 : (runs [0x01B4] fun s => s |> put 0x2000 [0x000F, 0x0001, 0x000D, 0x000C, 0x000B, 0x000A, 0x0009,
      0x0008, 0x0007, 0x0006, 0x0005, 0x0004, 0x0003, 0x0002, 0x0001, 0x0000] |>.setReg 0 0x2000).map
    (fun t => (t.fl, t.pc, t.bank 0, t.bank 1, t.bank 15)) =
    some (⟨false, false, false, false⟩, 0x1002, ⟨.ram, 15⟩, ⟨.ram, 1⟩, ⟨.ram, 0⟩) := by decide +kernel
theorem test_P31 : (runs [0x20CC] fun s => s |> put 0x300C [0x4000] |>.setPs (statusOf 0x00) |>.setIa 0x3000).map
    (fun t => ((t.fl, statusByte t.ps, t.pc, t.ssp), (t.ramByte 0x7FFF, word t 0x7FFC))) =
    some ((⟨false, false, false, false⟩, 0x80, 0x4000, 0x7FFC), (0x00, 0x1000)) := by decide
theorem test_P32 : (runs [0x20CE] fun s => s |>.setReg 0 0x2000 |> countingMmu 0x0100).map
    (fun t => (t.fl, t.pc, word t 0x2000, word t 0x203E)) =
    some (⟨false, false, false, false⟩, 0x1002, 0x0100, 0x011F) := by decide +kernel
theorem test_P33 : (runs [0x20CF] fun s => s |> put 0x2000 (List.range 32
      |>.map fun i => BitVec.ofNat 16 (0x0200 + i)) |>.setReg 0 0x2000).map
    (fun t => (t.fl, t.pc, t.mmuWord 0, t.mmuWord 31)) =
    some (⟨false, false, false, false⟩, 0x1002, 0x0200, 0x021F) := by decide +kernel
theorem test_P34 : (runs [0x12E0] fun s => s |> put 0x300E [0x4000] |>.setIa 0x3000).map
    (fun t => (t.fl, t.pc, t.ssp, t.ramByte 0x7FFF, word t 0x7FFC)) =
    some (⟨false, false, false, false⟩, 0x4000, 0x7FFC, 0x80, 0x1000) := by decide
theorem test_P35 : (runs [0x00B5] fun s => s |> put 0x300E [0x4000] |>.setPs (statusOf 0x00) |>.setIa 0x3000).map
    (fun t => ((t.fl, statusByte t.ps, t.pc, t.ssp), (t.ramByte 0x7FFF, word t 0x7FFC))) =
    some ((⟨false, false, false, false⟩, 0x80, 0x4000, 0x7FFC), (0x00, 0x1000)) := by decide

-- HWQ: spec/95_test_vectors.md, the rows named in the theorems.

theorem test_H3 : (runs [0x00C4] fun s => s |> put 0x300C [0x4000] |>.setPs (statusOf 0x00) |>.setIa 0x3000).map
    (fun t => ((t.fl, statusByte t.ps, t.pc, t.ssp), (t.ramByte 0x7FFF, word t 0x7FFC))) =
    some ((⟨false, false, false, false⟩, 0x80, 0x4000, 0x7FFC), (0x00, 0x1000)) := by decide
theorem test_H4 : (runs [0x03C4] fun s => s |>.setReg 0 0x0003).map
    (fun t => (t.fl, t.pc, t.tick)) =
    some (⟨false, false, false, false⟩, 0x1002, .rate 3) := by decide
theorem test_H6 : (runs [0x03C4] fun s => s |>.setReg 0 0xFFFF |>.setTick (.rate 3)).map
    (fun t => (t.fl, t.pc, t.tick)) =
    some (⟨false, false, false, false⟩, 0x1002, .disabled) := by decide

-- The MMU: spec/95_test_vectors.md, the rows named in the theorems.

theorem test_X1 : (runs [0x040A] fun s => s |> put 0x300A [0x4000] |> identity |>.setReg 0 0xBEEF
      |>.setReg 1 0x2000 |>.setPs (statusOf 0xC0) |>.setIa 0x3000 |>.setMmu 5 0x4000).map
    (fun t => ((t.fl, statusByte t.ps, t.pc, t.ssp), (t.p2, t.ramByte 0x7FFF, word t 0x7FFC))) =
    some ((⟨false, false, false, false⟩, 0x82, 0x4000, 0x7FFC), (0x2000, 0xC0, 0x1000)) := by decide
theorem test_X3 : (runs [0x040A] fun s => s |> put 0x300A [0x4000] |> identity |>.setReg 0 0xBEEF
      |>.setReg 1 0x2000 |>.setPs (statusOf 0x40) |>.setIa 0x3000 |>.setMmu 5 0x8000).map
    (fun t => ((t.fl, statusByte t.ps, t.pc, t.ssp), (t.p2, t.ramByte 0x7FFF, word t 0x7FFC))) =
    some ((⟨false, false, false, false⟩, 0x86, 0x4000, 0x7FFC), (0x2000, 0x40, 0x1000)) := by decide
theorem test_X5 : (runs [0x0402] fun s => s |> put 0x300A [0x4000] |> identity |>.setReg 1 0x2ABC
      |>.setPs (statusOf 0xC0) |>.setIa 0x3000 |>.setMmu 5 0xF000).map
    (fun t => ((t.fl, statusByte t.ps, t.pc, t.ssp), (t.p2, t.ramByte 0x7FFF, word t 0x7FFC))) =
    some ((⟨false, false, false, false⟩, 0x80, 0x4000, 0x7FFC), (0x2ABC, 0xC0, 0x1000)) := by decide
theorem test_X8 : (runs [0x040A] fun s => s |> identity |>.setReg 0 0xBEEF |>.setReg 1 0x2000
      |>.setPs (statusOf 0xC0)).map
    (fun t => (t.fl, t.pc, t.mmuWord 5, word t 0x2000)) =
    some (⟨false, false, false, false⟩, 0x1002, 0x0800, 0xBEEF) := by decide

-- Events of a step boundary: spec/95_test_vectors.md section 2.12.

/-- Nothing signalled. -/
def quiet : Signals :=
  { reset := false, irqs := [], clockTick := false, busRefresh := false, debugRise := false, pick := 0 }

/-- The start state with the handler address $4000 in slot `index` of the table at $3000. -/
def handling (index : Word) (s : State) : State := (s |> put (0x3000 + 2 * index) [0x4000]).setIa 0x3000

theorem test_E1 : (runs [] fun s => s |> handling 0xC |>.setPs (statusOf 0xA0)
      |>.setInputs [{ quiet with irqs := [7, 3] }]).map
    (fun t => ((t.ii, statusByte t.ps, t.ssp), t.ramByte 0x7FFF, word t 0x7FFC, t.pc)) =
    some ((0x0003, 0xA8, 0x7FFC), 0xA0, 0x1000, 0x4000) := by decide
theorem test_E2 : (runs [0x2401] fun s => s |>.setReg 1 5 |>.setInputs [{ quiet with irqs := [3] }]).map
    (fun t => (t.ii, t.pc, t.inputs)) = some (0, 0x1002, []) := by decide
theorem test_E4 : (runs [] fun s => s |> handling 0xC |>.setPs (statusOf 0x20)
      |>.setInputs [{ quiet with irqs := [1] }]).map
    (fun t => ((t.ii, statusByte t.ps, t.ssp, t.usp), t.ramByte 0x7FFF, word t 0x7FFC, t.pc)) =
    some ((0x0001, 0xA8, 0x7FFC, 0x7000), 0x20, 0x1000, 0x4000) := by decide
theorem test_E5 : (runs [] fun s => s |> handling 0x1 |>.setTick (.rate 3)
      |>.setInputs [{ quiet with clockTick := true }]).map
    (fun t => (t.ssp, word t 0x7FFE, word t 0x7FFC, t.pc)) = some (0x7FFC, 0x8000, 0x1000, 0x4000) := by decide
theorem test_E6 : (runs [0x2401] fun s => s |>.setInputs [{ quiet with clockTick := true }]).map
    (fun t => t.pc) = some 0x1002 := by decide
theorem test_E7 : (runs [] fun s => s |> handling 0xC |>.setHalted true |>.setPc 0x1002 |>.setPs (statusOf 0xA0)
      |>.setInputs [{ quiet with irqs := [2] }]).map
    (fun t => ((t.halted, t.ii, statusByte t.ps), t.ssp, word t 0x7FFC, t.pc)) =
    some ((false, 0x0002, 0xA8), 0x7FFC, 0x1002, 0x4000) := by decide
theorem test_E8 : (runs [] fun s => s |>.setHalted true |>.setPc 0x1002
      |>.setInputs [{ quiet with irqs := [2] }]).map
    (fun t => (t.halted, t.pc, t.ssp)) = some (true, 0x1002, 0x8000) := by decide
theorem test_E9 : (runs [] fun s => s |> handling 0xE |> identity |>.setPs (statusOf 0xC0)
      |>.setInputs [{ quiet with debugRise := true }]).map
    (fun t => ((statusByte t.ps, t.ssp, t.ramByte 0x7FFF), word t 0x7FFC, t.pc, t.bank 0, t.bank 15)) =
    some ((0x80, 0x7FFC, 0xC0), 0x1000, 0x4000, ⟨.rom, 0⟩, ⟨.ram, 15⟩) := by decide
theorem test_E10 : (runs [] fun s => s |> handling 0xD |>.setInputs [{ quiet with busRefresh := true }]).map
    (fun t => (t.ssp, word t 0x7FFE, word t 0x7FFC, t.pc)) = some (0x7FFC, 0x8000, 0x1000, 0x4000) := by decide
theorem test_E11 : (runs [] fun s => s |> put 0x0002 [0x4000] |>.setBank 0 ⟨.ram, 5⟩ |>.setTick (.rate 3)
      |>.setInputs [{ quiet with clockTick := true }]).map
    (fun t => (t.bank 0, t.ssp, word t 0x7FFE, word t 0x7FFC, t.pc)) =
    some (⟨.rom, 0⟩, 0x7FFC, 0x8000, 0x1000, 0x4000) := by decide
theorem test_E12 : (runs [] fun s => s |> put 0x0000 [0x0100] |>.setPs (statusOf 0x6C) |>.setIa 0x3000 |>.setHalted true
      |>.setTick (.rate 3) |>.setBank 5 ⟨.ram, 14⟩ |>.setInputs [{ quiet with reset := true, irqs := [1] }]).map
    (fun t => ((statusByte t.ps, t.ia, t.pc, t.halted), t.tick, t.bank 0, t.bank 5)) =
    some ((0x80, 0, 0x0100, false), .disabled, ⟨.rom, 0⟩, ⟨.ram, 5⟩) := by decide
theorem test_E14_clock : (runs [] fun s => s |> handling 0x1 |>.setTick (.rate 3) |>.setPs (statusOf 0xA0)
      |>.setInputs [{ quiet with irqs := [1], clockTick := true, pick := 0 }]).map
    (fun t => (t.ii, statusByte t.ps, t.pc)) = some (0, 0xA0, 0x4000) := by decide
theorem test_E14_hwi : (runs [] fun s => s |> handling 0xC |>.setTick (.rate 3) |>.setPs (statusOf 0xA0)
      |>.setInputs [{ quiet with irqs := [1], clockTick := true, pick := 1 }]).map
    (fun t => (t.ii, statusByte t.ps, t.pc)) = some (1, 0xA8, 0x4000) := by decide

-- HWQ $05 (H8), a fetch from an odd PC (95_test_vectors.md 1.1), and a placed word.

theorem test_H8 : step (put 0x1000 [0x05C4] start) = .refused (.hwqOperation 5) := rfl
theorem test_oddPc : (runs [0x2401] fun s => s.setPc 0x1001).map (fun t => t.pc) = some 0x1002 := by decide
theorem test_withFetchWord : (nextOf (step (State.reset.withFetchWord 32 0x12340000))).map (fun t => (t.reg 0, t.pc)) =
    some (0x1234, 4) := by decide

-- Witnesses: for every statement with hypotheses, concrete states and operands that meet them, clause by clause.

/-- User mode, I set. -/
def user : State := start.setPs (statusOf 0x20)

/-- Supervisor mode, MMU on, the identity map. -/
def mapped : State := (identity start).setPs (statusOf 0xC0)

/-- User mode, MMU on, the identity map. -/
def mappedUser : State := (identity start).setPs (statusOf 0x40)

/-- `mapped` with logical bank 2 (addresses $2000 to $2FFF) not present. -/
def holed : State := mapped.setMmu 5 0x1000

/-- `start` with the words $8001, $0002, $0000 at $2000 and R1 = $2000. -/
def words : State := (start |> put 0x2000 [0x8001, 0x0002, 0x0000]).setReg 1 0x2000

/-- `mapped` where device 0 bank $005 is ROM bank 0 and bank $006 a bank the chip does not have. -/
def oddBanks : State := { mapped with cfg := { Params.testVectors with dev0 := [(5, ⟨.rom, 0⟩), (6, ⟨.ram, 16⟩), (7, ⟨.ram, 15⟩)] } }

/-- The value of a result. -/
def valueOf {α : Type} (r : Res α) : Option α :=
  match r with
  | .ok a _ => some a
  | .raise _ _ => none

theorem ok_of_value {α : Type} {r : Res α} {v : α} (h : valueOf r = some v) : ∃ t, r = .ok v t := by
  cases r with
  | ok a t => exact ⟨t, by rw [Option.some.inj h]⟩
  | raise c t => cases h

theorem next_of_some {o : Host.Outcome State Fault Refusal} (h : (nextOf o).isSome = true) : ∃ t, o = .next t := by
  cases o with
  | next t => exact ⟨t, rfl⟩
  | fault f => cases h
  | refused r => cases h

theorem wit_TranslateMmuOffByBankMap_ram : start.ps.M = false ∧ (15 : Fin 16).val = (0xFFFF : Word).toNat / 4096 ∧
    (start.bank 15).kind = .ram ∧ (start.bank 15).index < start.cfg.nram := by decide
theorem wit_TranslateMmuOffByBankMap_rom : start.ps.M = false ∧ (0 : Fin 16).val = (0x0FFF : Word).toNat / 4096 ∧
    (start.bank 0).kind = .rom ∧ (start.bank 0).index < start.cfg.nrom := by decide
theorem wit_TranslateMmuOffByBankMap_absent : (start.setBank 1 ⟨.ram, 16⟩).ps.M = false ∧
    (1 : Fin 16).val = (0x1000 : Word).toNat / 4096 ∧
    ¬ BankExists start.cfg ((start.setBank 1 ⟨.ram, 16⟩).bank 1) :=
  ⟨rfl, by decide, fun h => absurd (show 16 < 16 from h) (by decide)⟩

theorem wit_TranslateMmuOnByCache_device :
    translate (mapped.setMmu 2 0x1005) 0x1FFF .read = .ok (.device 1 5 0xFFF) ∧
    (2 : Fin 32).val = 2 * ((0x1FFF : Word).toNat / 4096) ∧ (3 : Fin 32).val = 2 * ((0x1FFF : Word).toNat / 4096) + 1 ∧
    ((mapped.setMmu 2 0x1005).mmuWord 3).toNat % 16 * 65536 + ((mapped.setMmu 2 0x1005).mmuWord 2).toNat = 0x1005 :=
  ⟨rfl, by decide, by decide, by decide⟩
theorem wit_TranslateMmuOnByCache_none : translate (mapped.setMmu 2 0x0010) 0x1000 .read = .ok .absent ∧
    mapped.cfg.dev0.lookup 0x10 = none := ⟨rfl, by decide⟩
theorem wit_TranslateMmuOnByCache_banks :
    translate (oddBanks.setMmu 2 7) 0x1FFF .exec = .ok (.ram 0xFFFF) ∧ oddBanks.cfg.dev0.lookup 7 = some ⟨.ram, 15⟩ ∧
    translate (oddBanks.setMmu 2 5) 0x1FFF .exec = .ok (.rom 0xFFF) ∧ oddBanks.cfg.dev0.lookup 5 = some ⟨.rom, 0⟩ ∧
    translate (oddBanks.setMmu 2 6) 0x1FFF .exec = .ok .absent ∧ oddBanks.cfg.dev0.lookup 6 = some ⟨.ram, 16⟩ :=
  ⟨rfl, by decide, rfl, by decide, rfl, by decide⟩

theorem wit_BankFaultCodes : (5 : Fin 32).val = 2 * ((0x2000 : Word).toNat / 4096) + 1 ∧
    translate holed 0x2000 .write = .error (.bankFault 0x2000 false false false) ∧
    translate (mappedUser.setMmu 5 0x8000) 0x2FFF .read = .error (.bankFault 0x2FFF true false false) ∧
    translate (mappedUser.setMmu 5 0x8000) 0x2000 .exec = .error (.bankFault 0x2000 true false true) ∧
    translate (mappedUser.setMmu 5 0xC000) 0x2000 .write = .error (.bankFault 0x2000 true true false) ∧
    translate (mapped.setMmu 5 0x4000) 0x2000 .write = .error (.bankFault 0x2000 false true false) ∧
    translate (mapped.setMmu 5 0x2000) 0x2000 .exec = .error (.bankFault 0x2000 false false true) :=
  ⟨by decide, rfl, rfl, rfl, rfl, rfl, rfl⟩

theorem wit_WordRoundTrip : WritesByte start 0x1FFF 0x1FFF ∧ WritesByte start (0x1FFF + 1) 0x2000 ∧
    WritesByte mapped 0x1FFF 0x1FFF ∧ WritesByte mapped (0x1FFF + 1) 0x2000 := ⟨rfl, rfl, rfl, rfl⟩

theorem wit_FaultsAndDroppedWrites :
    translate holed 0x2000 .write = .error (.bankFault 0x2000 false false false) ∧
    translate holed 0x1FFF .write = .ok (.ram 0x1FFF) ∧
    translate holed (0x1FFF + 1) .write = .error (.bankFault 0x2000 false false false) ∧
    translate holed 0x2FFF .read = .error (.bankFault 0x2FFF false false false) ∧
    translate holed 0x1FFF .read = .ok (.ram 0x1FFF) ∧
    translate holed (0x1FFF + 1) .read = .error (.bankFault 0x2000 false false false) ∧
    translate start 0x0FFF .write = .ok (.rom 0xFFF) ∧
    translate (oddBanks.setMmu 2 5) 0x1000 .write = .ok (.rom 0) := ⟨rfl, rfl, rfl, rfl, rfl, rfl, rfl, rfl⟩

theorem wit_OperandValueByMode : (Operand.preDec 1).HasAddress 2 words 0x1FFE ∧
    translate words 0x1FFE .read = .ok (.ram 0x1FFE) ∧ translate words (0x1FFE + 1) .read = .ok (.ram 0x1FFF) ∧
    (Operand.postInc 1).HasAddress 1 words 0x2000 ∧ translate words 0x2000 .read = .ok (.ram 0x2000) ∧
    words.ps.M = false := ⟨rfl, rfl, rfl, rfl, rfl, rfl⟩

theorem wit_StackTransfersMoveWords : CanPush 3 start ∧ CanPop 3 start ∧ start.ps.M = false ∧ CanPush 1 mapped :=
  ⟨fun _ _ => ⟨_, rfl⟩, fun _ _ => ⟨_, rfl⟩, rfl, fun i hi => by
    obtain rfl : i = 0 := by omega
    exact ⟨_, rfl⟩⟩

theorem wit_LoadAndLogicResultAndFlags : ∀ w ∈ [0xE401, 0xE461, 0xE469, 0xE471, 0xE479],
    readOperand (aluOperand w 0) words = .ok 0x2000 words ∧
      w.toNat / 8 % 32 ∈ [0b00000, 0b01100, 0b01101, 0b01110, 0b01111] := by
  simp only [List.forall_mem_cons]
  exact ⟨⟨rfl, by decide⟩, ⟨rfl, by decide⟩, ⟨rfl, by decide⟩, ⟨rfl, by decide⟩, ⟨rfl, by decide⟩, by simp⟩

/-- The operand of the ALU statements: a word of memory through the base register R1, and an immediate. -/
theorem wit_AddAdcResultAndFlags : (∃ t, readOperand (.postInc 1) words = .ok 0x8001 t) ∧
    readOperand (.imm 0xFFFF) words = .ok 0xFFFF words := ⟨⟨_, rfl⟩, rfl⟩
theorem wit_SubSbcNegResultAndFlags : (∃ t, readOperand (.ind 1) words = .ok 0x8001 t) ∧
    readOperand (.imm 0x8000) words = .ok 0x8000 words := ⟨⟨_, rfl⟩, rfl⟩
theorem wit_CompareForBranches : (∃ t, readOperand (.indOff 1 2) words = .ok 0x0002 t) ∧
    readOperand (.reg 1) words = .ok 0x2000 words := ⟨⟨_, rfl⟩, rfl⟩
theorem wit_MultiplyGivesProduct : (∃ t, readOperand (.indexed 1 0) words = .ok 0x8001 t) ∧
    readOperand (.reg 0) words = .ok 0 words := ⟨⟨_, rfl⟩, rfl⟩
theorem wit_DivideGivesQuotientAndRemainder : (∃ t, readOperand (.abs 0x2002) words = .ok 0x0002 t) ∧ (0x0002 : Word) ≠ 0 ∧
    readOperand (.imm 0xFFFF) words = .ok 0xFFFF words ∧ (0xFFFF : Word) ≠ 0 := ⟨⟨_, rfl⟩, by decide, rfl, by decide⟩
theorem wit_DivideByZeroIsTaken : (∃ t, readOperand (.postInc 1) (words.setReg 1 0x2004) = .ok 0 t) ∧
    readOperand (.imm 0) words = .ok 0 words := ⟨⟨_, rfl⟩, rfl⟩

theorem wit_StoreWritesOperand : (Operand.preDec 1).HasAddress 2 words 0x1FFE ∧
    (∃ t, writeWord 0x1FFE (words.reg 1) words = .ok () t) ∧
    (Operand.abs 0xFFFF).HasAddress 2 words 0xFFFF ∧ (∃ t, writeWord 0xFFFF (words.reg 0) words = .ok () t) :=
  ⟨rfl, ⟨_, rfl⟩, rfl, ⟨_, rfl⟩⟩
theorem wit_LoadStoreOneByte : (∃ t, readOperand8 (.indOff 1 1) words = .ok 0x80 t) ∧
    (Operand.preDec 1).HasAddress 1 words 0x1FFF ∧
    (∃ t, writeByte 0x1FFF ((words.reg 0).extractLsb' 0 8) words = .ok () t) := ⟨⟨_, rfl⟩, rfl, ⟨_, rfl⟩⟩

theorem wit_UndefinedOpcodesAreTaken : ([0x00B5, 0xFFB7, 0x00BC, 0xFFBF, 0x00C8, 0xFFCB, 0x00E0, 0xFFFF, 0x009A, 0xFF9E,
      0x0009, 0xFFD9, 0xFE08, 0x00D8, 0x02B4, 0xFFB4] : List Word).all (fun w =>
    let lo := w.toNat % 256
    lo ∈ [0xB5, 0xB6, 0xB7, 0xBC, 0xBD, 0xBE, 0xBF, 0xC8, 0xC9, 0xCA, 0xCB] ∨ 0xE0 ≤ lo ∨ (0x9A ≤ lo ∧ lo ≤ 0x9E) ∨
      lo = 0x09 ∨ lo = 0xD9 ∨ ((lo = 0x08 ∨ lo = 0xD8) ∧ w.getLsbD 8 = false) ∨ (lo = 0xB4 ∧ w.getLsbD 9 = true)) = true := by
  decide

theorem wit_ShiftsResultAndFlags_none : (false = true ↔ ∃ j < 16, 16 ≤ j + 0 ∧ (words.reg 1).getLsbD j = true) ∧
    (false = true ↔ ∃ j < 0, (words.reg 1).getLsbD j = true) := by decide
theorem wit_ShiftsResultAndFlags_all : (true = true ↔ ∃ j < 16, 16 ≤ j + 15 ∧ (words.reg 1).getLsbD j = true) ∧
    (true = true ↔ ∃ j < 15, (words.reg 1).getLsbD j = true) := by decide

theorem wit_BitTestsResultAndFlags : (0x2FA8 : Word).toNat % 256 = 0xA8 ∧ (0x20A9 : Word).toNat % 256 = 0xA9 ∧
    (0x2FAA : Word).toNat % 256 = 0xAA ∧ (0x31AB : Word).toNat % 256 = 0xAB ∧
    (∀ j < 16, (0xA000 : Word).getLsbD j = if j = 15 then true else (words.reg 1).getLsbD j) ∧
    ∀ j < 16, (0x2001 : Word).getLsbD j = if j = 0 then true else (words.reg 1).getLsbD j := by decide
theorem wit_BranchesByFlags : ∀ k < 10, (0x80#8 ++ BitVec.ofNat 8 (0x90 + k)).toNat % 256 = 0x90 + k := by decide
theorem wit_ImmediatesResultAndFlags : (0x00B8 : Word).toNat % 256 = 0xB8 ∧ (0x00B8 : Word).toNat / 256 % 32 + 1 = 1 ∧
    (0x1FB9 : Word).toNat % 256 = 0xB9 ∧ (0x1FB9 : Word).toNat / 256 % 32 + 1 = 32 := by decide
theorem wit_SefClfChangeNamedFlags : (0xF0AE : Word).toNat % 256 = 0xAE ∧ (0x80AF : Word).toNat % 256 = 0xAF := by decide

/-- The operands 1.5 at $2000 and 2.25 at $2004, with R1 and R2 at them. -/
def floats : State := ((start |> put 0x2000 [0x0000, 0x3FC0, 0x0000, 0x4010]).setReg 1 0x2000).setReg 2 0x2004

theorem wit_FpuResultIsPushed : readWord .read (floats.reg 1) floats = .ok 0x0000 floats ∧
    readWord .read (floats.reg 1 + 2) floats = .ok 0x3FC0 floats ∧
    readWord .read (floats.reg 2) floats = .ok 0x0000 floats ∧
    readWord .read (floats.reg 2 + 2) floats = .ok 0x4010 floats ∧ CanPush 2 floats :=
  ⟨rfl, rfl, rfl, rfl, fun _ _ => ⟨_, rfl⟩⟩
theorem wit_FpuResultIsPushed_values : fpArith start.cfg.fp .add 0x3FC00000 0x40100000 = .ok 0x40700000 ∧
    fpArith start.cfg.fp .sub 0x3FC00000 0x40100000 = .ok 0xBF400000 ∧
    fpArith start.cfg.fp .mul 0x3FC00000 0x40100000 = .ok 0x40580000 ∧
    fpArith start.cfg.fp .div 0x40400000 0x40000000 = .ok 0x3FC00000 := by decide
theorem wit_FpuErrorIsTaken : fpArith start.cfg.fp .div 0x40400000 0x00000000 = .err true ∧
    fpArith start.cfg.fp .add 0x7F800000 0x3F800000 = .err false := by decide
theorem wit_FpuConstraintsHold : (0x807FFFFF : BitVec 32).toNat / 2 ^ 23 % 256 = 0 ∧
    fpArith .binary32 .sub 0x3FC00000 0x3FC00000 = .ok 0 ∧ (0 : BitVec 32).toNat / 2 ^ 23 % 256 = 0 ∧
    fpArith .binary32 .div 0x40400000 0x807FFFFF = .err true ∧ (0x7F7FFFFF : BitVec 32).toNat / 2 ^ 23 % 256 ≠ 255 := by
  decide

theorem wit_SwiTakenWhenEnabled : user.ps.I = true ∧ ({ start with cfg := { start.cfg with swiGated := false } }).cfg.swiGated = false ∧
    start.ps.I = false ∧ start.cfg.swiGated = true := by decide

/-- `start` with the words of a return from an interrupt on the stack. -/
def onStack (ws : List Word) (s : State) : State := s |> put 0x7F00 ws |>.setSsp 0x7F00

theorem wit_RtiPopsPcAndPs : (onStack [0x1236, 0x6C00] start).ps.S = true ∧
    ∃ t, popWords 2 (onStack [0x1236, 0x6C00] start) = .ok [0x1236, 0x6C00] t := ⟨rfl, _, rfl⟩
theorem wit_JmpSetsPc : (∃ t, readOperand (.postInc 1) words = .ok 0x8001 t) ∧
    readOperand (.imm 0xFFFF) words = .ok 0xFFFF words := ⟨⟨_, rfl⟩, rfl⟩
theorem wit_JsrPushesAndJumps : readOperand (.imm 0x3000) start = .ok 0x3000 start ∧ CanPush 1 start ∧
    readOperand (.imm 0x3000) (holed.setSsp 0x3000) = .ok 0x3000 (holed.setSsp 0x3000) ∧
    translatePair (holed.setSsp 0x3000) ((holed.setSsp 0x3000).sp - 2) .write =
      .error (.bankFault 0x2FFE false false false) :=
  ⟨rfl, fun _ _ => ⟨_, rfl⟩, rfl, rfl⟩
theorem wit_JmuEntersUserMode : words.ps.S = true ∧ ∃ t, readOperand (.preDec 1) (words.setReg 1 0x2002) = .ok 0x8001 t :=
  ⟨rfl, _, rfl⟩

/-- `start` with the frame of JCX on the stack: pointer $2000, R7 to R0, FL, PC, PS, and the array at $2000. -/
def saved : State := (start |> put 0x2000 (List.replicate 32 7)).setMmu 0 1 |>
  onStack [0x2000, 7, 6, 5, 4, 3, 2, 1, 0, 0x5000, 0x1236, 0x6000]

theorem wit_JcxRestoresContext : saved.ps.S = true ∧ saved.ps.M = false ∧ ∃ t1 t2 t3, pop saved = .ok 0x2000 t1 ∧
    loadMmu 0x2000 t1 = .ok () t2 ∧ popWords 11 t2 = .ok [7, 6, 5, 4, 3, 2, 1, 0, 0x5000, 0x1236, 0x6000] t3 := by
  refine ⟨by decide +kernel, by decide +kernel, ?_⟩
  obtain ⟨u, hu⟩ := ok_of_value (r := (pop saved).bind fun a t1 => (loadMmu a t1).bind fun _ t2 => (popWords 11 t2).bind
    fun ws t3 => .ok (a, ws) t3) (v := (0x2000, [7, 6, 5, 4, 3, 2, 1, 0, 0x5000, 0x1236, 0x6000])) (by decide +kernel)
  obtain ⟨a, t1, h1, hu⟩ := Res.bind_eq_ok.1 hu
  obtain ⟨_, t2, h2, hu⟩ := Res.bind_eq_ok.1 hu
  obtain ⟨ws, t3, h3, hu⟩ := Res.bind_eq_ok.1 hu
  cases hu
  exact ⟨t1, t2, u, h1, h2, h3⟩

theorem wit_PshGeneralPushesList : CanPush 8 start ∧ CanPush 0 holed ∧
    ∃ c t, pushWords [1, 2] (holed.setSsp 0x3002) = .raise c t :=
  ⟨fun _ _ => ⟨_, rfl⟩, fun i hi => absurd hi (by omega), _, _, rfl⟩
theorem wit_PopGeneralPopsList : ∃ t, popWords ((List.range 8).filter fun j => decide (0 ≤ j) &&
      (0b10000001 : BitVec 8).getLsbD j).length (onStack [7, 8] start) = .ok [7, 8] t := ⟨_, rfl⟩
theorem wit_PshSpecialPushesList : ((0b11111 : BitVec 5).getLsbD 2 = true → start.ps.S = true) ∧ CanPush 5 start ∧
    ((0b11011 : BitVec 5).getLsbD 2 = true → user.ps.S = true) ∧ CanPush 4 user :=
  ⟨by decide, fun _ _ => ⟨_, rfl⟩, by decide, fun _ _ => ⟨_, rfl⟩⟩
theorem wit_PopSpecialPopsList_all : ((0b11111 : BitVec 5).getLsbD 2 = true → start.ps.S = true) ∧
    ∃ t, PopsSpecial 0b11111 (onStack [0xF000, 0x2000, 0xA000, 0x6000, 0x9000] start) 0xF000 0x2000 0xA000 0x6000 0x9000 t :=
  ⟨by decide, _, _, _, _, _, _, rfl, rfl, rfl, rfl, rfl, rfl⟩
theorem wit_PopSpecialPopsList_rts : ∃ t, pop (onStack [0x1004] start) = .ok 0x1004 t := ⟨_, rfl⟩
theorem wit_PsInUserModeTrapsLast_push : user.ps.S = false ∧ (0b11111 : BitVec 5).getLsbD 2 = true ∧
    CanPush (((0b11111 : BitVec 5) &&& 0b11011).cpop.toNat) user := ⟨by decide, by decide, fun _ _ => ⟨_, rfl⟩⟩
theorem wit_PsInUserModeTrapsLast_pop : ∃ t, PopsSpecial 0b10100 (user |> put 0x7000 [0xC000]) 0xC000 0 0 0 0 t :=
  ⟨_, _, _, _, _, _, rfl, rfl, rfl, rfl, rfl, rfl⟩

theorem wit_HwqBusAnswers : start.ps.S = true := by decide
theorem wit_HwqClockTickAndTime : start.ps.S = true ∧ (start.setReg 0 0xFFFF).reg 0 = 0xFFFF ∧
    (start.setReg 0 0xFFFE).reg 0 ≠ 0xFFFF := by decide
theorem wit_HwqRestRefused : 5 ≤ (0x05 : BitVec 8).toNat ∧ 5 ≤ (0xFF : BitVec 8).toNat ∧ start.ps.S = true ∧ user.ps.S = false := by
  decide
theorem wit_MimMiaSetBankMap : words.ps.M = false ∧ HoldsWord words (words.reg 1 + BitVec.ofNat 16 (2 * (0 : Fin 16).val)) 0x8001 ∧
    mapped.ps.M = true := ⟨rfl, ⟨.inl ⟨_, rfl, rfl⟩, .inl ⟨_, rfl, rfl⟩⟩, rfl⟩
theorem wit_MmrMmwReadWriteCache : start.ps.S = true ∧ (31 : Fin 32).val = ((start.setReg 2 0xFFFF).reg 2).toNat % 32 := by decide
theorem wit_MmlStoresMmuWords : words.ps.S = true ∧ readOperand (.reg 1) words = .ok 0x2000 words ∧ words.ps.M = false ∧
    (∃ c u, storeMmu 0x1FFE holed = .raise c u) := ⟨rfl, rfl, rfl, _, _, rfl⟩
theorem wit_MmlStoresMmuWords_stores : ∃ u, storeMmu 0x2000 words = .ok () u := ⟨_, rfl⟩
theorem wit_MmsLoadsMmuWords : words.ps.S = true ∧ readOperand (.reg 1) words = .ok 0x2000 words ∧ words.ps.M = false ∧
    HoldsWord words (0x2000 + BitVec.ofNat 16 (2 * (1 : Fin 32).val)) 0x0002 ∧
    (∃ c u, loadMmu 0x1FFE holed = .raise c u) :=
  ⟨rfl, rfl, rfl, ⟨.inl ⟨_, rfl, rfl⟩, .inl ⟨_, rfl, rfl⟩⟩, _, _, rfl⟩
theorem wit_MmsLoadsMmuWords_loads : ∃ u, loadMmu 0x2000 words = .ok () u := ⟨_, rfl⟩
theorem wit_TsrReadsSpecial : start.ps.S = true ∧ user.ps.S = false ∧ start.psClean = true ∧ user.psClean = false ∧
    8 ≤ (0b01000 : BitVec 5).toNat ∧ 8 ≤ (0b11111 : BitVec 5).toNat ∧ (0b00111 : BitVec 5).toNat = 7 := by decide
theorem wit_TrsWritesSpecial : start.ps.S = true ∧ user.ps.S = false ∧ 8 ≤ (0b01000 : BitVec 5).toNat ∧ (0b00111 : BitVec 5).toNat = 7 ∧
    (0b00010 : BitVec 5).toNat ≠ 0 ∧ (0b00010 : BitVec 5).toNat ≠ 1 := by decide
theorem wit_SlpHalts : start.ps.S = true ∧ (start.setHalted true).halted = true ∧ (start.setHalted true).inputs = [] := by
  decide

theorem wit_PrivilegedTrapsInUserMode : user.ps.S = false ∧ user.inputs = [] ∧ user.halted = false ∧
    readWord .exec (addrOf (user |> put 0x1000 [0x00C2])) (user |> put 0x1000 [0x00C2]) =
      .ok 0x00C2 (user |> put 0x1000 [0x00C2]) ∧ (0x00C2 : Word).toNat % 256 ∈ [0xC2, 0xCE, 0xCF] :=
  ⟨rfl, rfl, rfl, rfl, by decide⟩
theorem wit_OperandFaultsChangeNothing : (∃ c t, readOperand (.abs 0x1FFF) holed = .raise c t) ∧
    (∃ c t, readOperand8 (.abs 0x2000) holed = .raise c t) ∧ holed.ps.S = true ∧
    (Operand.abs 0x1FFF).HasAddress 2 holed 0x1FFF ∧
    translatePair holed 0x1FFF .write = .error (.bankFault 0x2000 false false false) ∧
    (Operand.abs 0x2FFF).HasAddress 1 holed 0x2FFF ∧
    translate holed 0x2FFF .write = .error (.bankFault 0x2FFF false false false) :=
  ⟨⟨_, _, rfl⟩, ⟨_, _, rfl⟩, rfl, rfl, rfl, rfl, rfl⟩

/-- What taking a bank fault from `holed` leaves, with the handler at $4000. -/
def entered : State := takeInterrupt (.bankFault 0x2000 false true false) 0x1000 (handling 5 holed)

theorem wit_InterruptEntryWhole : WritesByte entered (holed.ssp - 4) 0x7FFC ∧ WritesByte entered (holed.ssp - 4 + 1) 0x7FFD ∧
    WritesByte entered (holed.ssp - 2) 0x7FFE ∧ WritesByte entered (holed.ssp - 1) 0x7FFF := ⟨rfl, rfl, rfl, rfl⟩
theorem wit_InterruptEntryWhole_vector : HoldsWord entered ((handling 5 holed).ia + BitVec.ofNat 16 (2 * 5)) 0x4000 :=
  ⟨.inl ⟨_, rfl, rfl⟩, .inl ⟨_, rfl, rfl⟩⟩
theorem wit_InterruptEntryWhole_clean : start.psClean = true ∧ start.ps.M = false ∧ holed.ps.M = true := by decide

theorem wit_AsyncEventsAtBoundary_inputs : ∀ g : Signals, (start.setInputs [g]).inputs = g :: [] := fun _ => rfl
theorem wit_AsyncEventsAtBoundary : ({ quiet with reset := true } : Signals).reset = true ∧ quiet.reset = false ∧
    quiet.clockTick = false ∧ quiet.irqs = [] ∧ quiet.busRefresh = false ∧ quiet.debugRise = false ∧
    (start.setTick (.rate 10)).tick ≠ .disabled ∧ (start.setPs (statusOf 0xA0)).ps.I = true ∧
    (start.setPs (statusOf 0xA0)).ps.Q = false ∧ (∃ d ∈ [255], 1 ≤ d ∧ d ≤ 255) ∧
    (∀ d' ∈ [255], 1 ≤ d' → 255 ≤ d') := by decide

theorem wit_StepRunsDecoded : start.halted = false ∧ start.inputs = [] ∧
    decode [0x10, 0x00, 0x34, 0x12] = .ok (.add 0 (.imm 0x1234), []) ∧
    (∀ (j : Nat) (h : j < 4), HoldsByte (put 0x1000 [0x0010, 0x1234] start) .exec
      (addrOf (put 0x1000 [0x0010, 0x1234] start) + BitVec.ofNat 16 j) [0x10, 0x00, 0x34, 0x12][j]) :=
  ⟨rfl, rfl, rfl, fun j h => by
    match j, h with
    | 0, _ => exact .inl ⟨_, rfl, rfl⟩
    | 1, _ => exact .inl ⟨_, rfl, rfl⟩
    | 2, _ => exact .inl ⟨_, rfl, rfl⟩
    | 3, _ => exact .inl ⟨_, rfl, rfl⟩⟩
theorem wit_StepRunsDecoded_fault : holed.halted = false ∧
    translatePair (holed.setPc 0x2001) (addrOf (holed.setPc 0x2001)) .exec = .error (.bankFault 0x2000 false false false) :=
  ⟨rfl, rfl⟩

/-- ADD R0, immediate in the last word before logical bank 2, which is not present. -/
def cut : State := ((identity (put 0x1FFE [0x0010] start)).setPs (statusOf 0xC0) |>.setMmu 5 0x1000).setPc 0x1FFE

theorem wit_StepRunsDecoded_nextWord : HoldsByte cut .exec (addrOf cut) 0x10 ∧ HoldsByte cut .exec (addrOf cut + 1) 0x00 ∧
    (∀ r, decode [0x10, 0x00] ≠ .ok r) ∧ cut.ps.S = true ∧
    translatePair cut (addrOf cut + 2) .exec = .error (.bankFault 0x2000 false false false) :=
  ⟨.inl ⟨_, rfl, rfl⟩, .inl ⟨_, rfl, rfl⟩, (fun _ h => by cases h), rfl, rfl⟩

theorem wit_DecodeEncodeAgree : (Instr.popSpecial 0b11111).wellFormed = true ∧ (Instr.hwq 5).wellFormed = true ∧
    (Instr.sto 7 (.indexed 7 7)).wellFormed = true := by decide

theorem inv_of {s : State} (hw : Memory.wf ramDefault s.ram) (hr : ∀ c ∈ s.ram, c.1 < 16 * 4096)
    (hc : s.cfg = Params.testVectors) (hm : s.im = defaultMap false) (hp : s.psClean = true → s.ps = Status.afterReset)
    (he : s.ramEpoch < s.free) : s.Inv where
  ramWf := hw
  ramRange := by rw [hc]; exact hr
  romWf := by rw [hc]; decide
  banks k := by
    rw [hc, State.bank, hm]
    fin_cases k <;> exact Nat.le_of_ble_eq_true rfl
  clean := hp
  epoch := he

theorem wit_StepKeepsInv : (put 0x1000 [0x2401] start).Inv ∧ ∃ t, step (put 0x1000 [0x2401] start) = .next t :=
  ⟨inv_of (by decide +kernel) (by decide +kernel) rfl rfl (by decide) (by decide), next_of_some (by decide +kernel)⟩
theorem wit_UserIsolation : (put 0x1000 [0x2401] user).ps.S = false ∧ ∃ t, step (put 0x1000 [0x2401] user) = .next t ∧
    t.ps.S = false := ⟨by decide +kernel, _, rfl, rfl⟩
theorem wit_UserIsolation_enters : (put 0x1000 [0x00C6] user).ps.S = false ∧ ∃ t, step (put 0x1000 [0x00C6] user) = .next t ∧
    t.ps.S = true := ⟨by decide +kernel, _, rfl, rfl⟩

-- Runs without end, for FairEnvironmentServesEvents.

/-- The environment that presents `g` at every boundary. -/
def always (g : Signals) : Environment := fun _ => g

/-- The bus changes at every boundary. -/
def changing : Environment := always { quiet with busRefresh := true }

theorem wit_FairEnvironmentServesEvents_busRefresh : FairToEvents changing start ∧
    ∀ m ≥ 0, SignalledAt changing start .busRefresh m ∧ (changing m).reset = false := by
  have hp (s : State) : pickEvent { quiet with busRefresh := true } s = some .busRefresh := by
    simp [pickEvent, eligible, asyncCauses, signalled, unmasked, quiet, lowestIrq]
  have hr (n : Nat) : ∃ t, runUnder changing start n = .next t := by
    induction n with
    | zero => exact ⟨_, rfl⟩
    | succ n ih =>
      obtain ⟨t, ht⟩ := ih
      exact ⟨_, (runUnder_succ ht).trans (stepWith_taken rfl (hp t))⟩
  refine ⟨fun c n h _ => ⟨n, le_refl _, ?_⟩, fun m _ => ⟨(hr m).imp fun _ h => ⟨h, rfl⟩, rfl⟩⟩
  obtain ⟨t, ht, hs⟩ := h n (le_refl _)
  have hc : c = .busRefresh := by
    cases c <;> first | rfl | exact absurd hs (by simp [signalled, changing, always, quiet, lowestIrq])
  exact ⟨t, ht, rfl, hc ▸ hp t⟩

/-- A processor whose whole program is the handler of the hardware interrupt, at $0100 of ROM: TRS PS, R0, which sets I and
clears Q. The other fields are those of `v`. -/
def polling (ps : Status) (pc : Word) (v : State) : State :=
  { v with
    regs   := Vector.replicate 8 0xA000
    ps     := ps
    pc     := pc
    ia     := 0
    im     := defaultMap false
    halted := false
    tick   := .disabled
    cfg    := { Params.testVectors with rom := [(0x19, 0x01), (0x100, 0xBB), (0x101, 0x04)] } }

/-- It waits for the interrupt, with I set and Q clear. -/
abbrev waiting (pc : Word) (v : State) : State := polling (statusOf 0xA0) pc v

/-- It is at its handler, with Q set. -/
abbrev handler (v : State) : State := polling (statusOf 0xA8) 0x100 v

theorem readWord_polling {ps : Status} (h : ps.M = false) (pc : Word) (v : State) (k : Access) :
    readWord k 0x18 (polling ps pc v) = .ok 0x100 (polling ps pc v) ∧
      readWord k 0x100 (polling ps pc v) = .ok 0x04BB (polling ps pc v) := by
  have ht (a : Word) (ha : bankOf a = 0) :
      Machine.translate (polling ps pc v) a k = .ok (.rom (offsetOf a).toNat) := by
    rw [translate_of_not_M h, ha]
    simp [internalLoc, polling, State.bank, defaultMap, Params.testVectors]
  have hr (a : Nat) : (polling ps pc v).romByte a = (handler start).romByte a := rfl
  simp only [readWord, readPair, translatePair, ht 0x18 (by decide), ht (0x18 + 1) (by decide), ht 0x100 (by decide),
    ht (0x100 + 1) (by decide), physRead_rom, Res.bind_ok, hr]
  exact ⟨congrArg (Res.ok · _) (by decide), congrArg (Res.ok · _) (by decide)⟩

theorem pushPair_polling (lo hi : Byte) {ps : Status} (h : ps.M = false) (pc : Word) (v : State) :
    ∃ w, pushPair lo hi (polling ps pc v) = .ok () (polling ps pc w) := by
  obtain ⟨t, ht⟩ := pushPair_of_not_M (s := polling ps pc v) h lo hi
  obtain ⟨u, -, rfl, hf⟩ := pushPair_ok ht
  refine ⟨u.setSp ((polling ps pc v).sp - 2), ht.trans ?_⟩
  rw [hf.eq]
  cases hS : ps.S <;> simp [State.setSp, polling, hS, State.setSsp, State.setUsp]

/-- The interrupt takes it to its handler. -/
theorem waiting_taken (pc d : Word) (v : State) : ∃ w, takeInterrupt .hwi pc ((waiting pc v).setIi d) = handler w := by
  have h1 : Cause.hwi.record (((readPsLow ((waiting pc v).setIi d)).2.setPs (Cause.hwi.status (statusOf 0xA0))).setIm
      (entryMap (statusOf 0xA0) (defaultMap false))) =
      polling (statusOf 0xA8) pc ((readPsLow (v.setIi d)).2.setPs (statusOf 0xA8)) := by
    unfold readPsLow
    cases h : v.psClean <;> simp [polling, h, State.setIi] <;> rfl
  obtain ⟨w, hw⟩ := pushPair_polling (readPsLow ((waiting pc v).setIi d)).1 (statusByte (statusOf 0xA0))
    (ps := statusOf 0xA8) rfl pc ((readPsLow (v.setIi d)).2.setPs (statusOf 0xA8))
  obtain ⟨u, hu⟩ := pushPair_polling (loByte pc) (hiByte pc) (ps := statusOf 0xA8) rfl pc w
  refine ⟨u, ?_⟩
  unfold takeInterrupt
  simp only [show ((waiting pc v).setIi d).ps = statusOf 0xA0 from rfl,
    show ((waiting pc v).setIi d).im = defaultMap false from rfl]
  rw [h1, hw, Res.state, push, hu, Res.state,
    show (polling (statusOf 0xA8) pc u).ia + 2 * Cause.hwi.index = 0x18 from (by decide : (0 : Word) + 2 * 0xC = 0x18),
    (readWord_polling (ps := statusOf 0xA8) rfl pc u .read).1]
  rfl

/-- Its handler makes it wait again. -/
theorem handler_runs (v : State) : ∃ w, runInstr (handler v) = .next (waiting 0x102 w) := by
  have ha : instrAddr (handler v) = 0x100 := (by decide : (0x100 : Word) &&& 0xFFFE = 0x100)
  have hf : fetchInstr (handler v) = .ok (.trs 0 4) (handler v) := by
    simp only [fetchInstr, ha, (readWord_polling (ps := statusOf 0xA8) rfl 0x100 v .exec).2, Res.bind_ok]
    rfl
  have hw : writeSpecial 4 0xA000 (handler v) = waiting 0x100 { v with psClean := false } := rfl
  have hx : execTrs 0 4 (handler v) = .next (next 2 (handler v) (writeSpecial 4 0xA000 (handler v))) := rfl
  refine ⟨{ v with psClean := false }, ?_⟩
  unfold runInstr
  rw [hf]
  refine hx.trans (congrArg _ ?_)
  rw [hw, next, npc, ha]
  rfl

/-- Device 1 asserts IRQ at every boundary. -/
def asserting : Environment := always { quiet with irqs := [1] }

/-- The interrupt is taken at every even boundary, and the handler runs at the odd ones. -/
theorem asserting_run (n : Nat) : ∃ pc v w, runUnder asserting (waiting 0 start) (2 * n) = .next (waiting pc v) ∧
    runUnder asserting (waiting 0 start) (2 * n + 1) = .next (handler w) := by
  have taken (m : Nat) (pc : Word) (v : State) (h : runUnder asserting (waiting 0 start) m = .next (waiting pc v)) :
      ∃ w, runUnder asserting (waiting 0 start) (m + 1) = .next (handler w) := by
    obtain ⟨w, hw⟩ := waiting_taken pc 1 (v.setInputs [])
    exact ⟨w, (runUnder_succ h).trans ((stepWith_taken (c := .hwi) rfl rfl).trans (congrArg _ hw))⟩
  induction n with
  | zero => exact ⟨0, start, (taken 0 0 start rfl).imp fun _ h => ⟨rfl, h⟩⟩
  | succ n ih =>
    obtain ⟨_, _, w, _, h⟩ := ih
    obtain ⟨v, hv⟩ := handler_runs (w.setInputs [])
    have h2 := (runUnder_succ h).trans hv
    exact ⟨0x102, v, (taken _ 0x102 v h2).imp fun _ h => ⟨h2, h⟩⟩

theorem wit_FairEnvironmentServesEvents_hwi : FairToEvents asserting (waiting 0 start) ∧
    (∀ m ≥ 0, SignalledAt asserting (waiting 0 start) .hwi m ∧ (asserting m).reset = false) ∧
    ∀ m ≥ 0, ∃ k ≥ m, ∃ t, runUnder asserting (waiting 0 start) k = .next t ∧ t.ps.I = true ∧ t.ps.Q = false := by
  refine ⟨fun c n h _ => ?_, fun m _ => ⟨?_, rfl⟩, fun m _ => ?_⟩
  · obtain ⟨_, _, _, h0, -⟩ := asserting_run n
    obtain ⟨t, ht, hs⟩ := h n (le_refl _)
    have hc : c = .hwi := by cases c <;> first | rfl | simp [signalled, asserting, always, quiet] at hs
    exact ⟨2 * n, by omega, _, h0, rfl, hc ▸ rfl⟩
  · obtain ⟨_, _, _, h0, h1⟩ := asserting_run (m / 2)
    rcases Nat.mod_two_eq_zero_or_one m with h | h
    · exact ⟨_, (by rw [show m = 2 * (m / 2) by omega]; exact h0), rfl⟩
    · exact ⟨_, (by rw [show m = 2 * (m / 2) + 1 by omega]; exact h1), rfl⟩
  · obtain ⟨_, _, _, h0, -⟩ := asserting_run m
    exact ⟨2 * m, by omega, _, h0, rfl, rfl⟩

/-- Halted, with the tick enabled. -/
def asleep : State := (start.setHalted true).setTick (.rate 0)

theorem wit_FairEnvironmentServesEvents_halted :
    FairClock (always { quiet with clockTick := true }) asleep ∧ asleep.halted = true ∧ asleep.tick ≠ .disabled := by
  refine ⟨fun n h => ⟨n, le_refl _, ?_⟩, rfl, by decide⟩
  obtain ⟨t, ht, hk⟩ := h n (le_refl _)
  exact ⟨t, ht, by simp [signalled, always, hk]⟩

end Sys2Proof.Tests
end

section
/-! PROOFS. LOD and the logic instructions of the ALU format (spec/40_alu.md section 1, R160). The frame of an ALU
instruction is proved once, from what reading its operand can do, and every rule that keeps C and V is one use of it. -/

namespace Sys2Proof

-- The fields of an instruction word of the ALU format (30_encoding.md R112).

theorem fieldHi_eq (w : Word) (h : w.toNat / 8192 < 8) : fieldHi w = ⟨w.toNat / 8192, h⟩ := by
  apply Fin.ext
  simp only [fieldHi, toReg, BitVec.extractLsb'_toNat, Nat.shiftRight_eq_div_pow]
  omega

theorem aluOpcode_toNat (w : Word) : (w.extractLsb' 3 5).toNat = w.toNat / 8 % 32 := by
  simp only [BitVec.extractLsb'_toNat, Nat.shiftRight_eq_div_pow, Nat.reducePow]

-- The rows of the opcode map for LOD, AND, ORR, EOR and NOT.

theorem decodeWords_lod {w : Word} (nw : Word) (h : w.toNat / 8 % 32 = 0b00000) :
    decodeWords w nw = .lod (fieldHi w) (aluOperand w nw) := by
  simp only [decodeWords, aluOpcode_toNat, h]

theorem decodeWords_and {w : Word} (nw : Word) (h : w.toNat / 8 % 32 = 0b01100) :
    decodeWords w nw = .and (fieldHi w) (aluOperand w nw) := by
  simp only [decodeWords, aluOpcode_toNat, h]

theorem decodeWords_orr {w : Word} (nw : Word) (h : w.toNat / 8 % 32 = 0b01101) :
    decodeWords w nw = .orr (fieldHi w) (aluOperand w nw) := by
  simp only [decodeWords, aluOpcode_toNat, h]

theorem decodeWords_eor {w : Word} (nw : Word) (h : w.toNat / 8 % 32 = 0b01110) :
    decodeWords w nw = .eor (fieldHi w) (aluOperand w nw) := by
  simp only [decodeWords, aluOpcode_toNat, h]

theorem decodeWords_not {w : Word} (nw : Word) (h : w.toNat / 8 % 32 = 0b01111) :
    decodeWords w nw = .not (fieldHi w) (aluOperand w nw) := by
  simp only [decodeWords, aluOpcode_toNat, h]

end Sys2Proof

namespace Sys2Proof.Machine

-- What reading an operand leaves unchanged.

theorem OnlyStore.status {s t : State} (h : OnlyStore s t) : SameStatus s t :=
  ⟨h.ps, h.psClean, h.ia, h.ii, h.p2, h.bank, h.ramEpoch, h.halted, h.tick, h.rtcTime, h.inputs, h.cfg⟩

theorem OnlyBus.unchanged {s t : State} (h : OnlyBus s t) (keep : Reg → Prop) : Unchanged keep s t where
  regs r _ := h.store.reg r
  status   := h.store.status
  sps      := ⟨h.store.ssp, h.store.usp⟩
  mmu      := h.mmuWord
  memory   := ⟨h.ramByte, h.store.romByte⟩

/-- The write of register `rd` costs the frame that register. -/
theorem Unchanged.setReg {keep : Reg → Prop} {s t : State} (h : Unchanged keep s t) (rd : Reg) (v : Word) :
    Unchanged (fun k => k ≠ rd ∧ keep k) s (t.setReg rd v) where
  regs   := fun r ⟨hne, hk⟩ => (setReg_reg_of_ne t v hne).trans (h.regs r hk)
  status := { h.status with }
  sps    := { h.sps with }
  mmu    := h.mmu
  memory := { h.memory with }

theorem Unchanged.mono {keep keep' : Reg → Prop} {s t : State} (h : Unchanged keep s t) (hk : ∀ r, keep' r → keep r) :
    Unchanged keep' s t := { h with regs := fun r hr => h.regs r (hk r hr) }

theorem Unchanged.setFl {keep : Reg → Prop} {s t : State} (h : Unchanged keep s t) (f : Flags) :
    Unchanged keep s (t.setFl f) := ⟨h.regs, { h.status with }, { h.sps with }, h.mmu, { h.memory with }⟩

theorem Unchanged.setPc {keep : Reg → Prop} {s t : State} (h : Unchanged keep s t) (a : Word) :
    Unchanged keep s (t.setPc a) := ⟨h.regs, { h.status with }, { h.sps with }, h.mmu, { h.memory with }⟩

/-- The update of the base register costs the frame at most that register. -/
theorem Unchanged.withBase {s t : State} (h : Unchanged (fun _ => True) s t) (m : Operand) (size : Word) :
    Unchanged (fun k => m.base ≠ some k) s (Machine.withBase m size s t) := by
  unfold Machine.withBase
  cases m.base with
  | none => exact h.mono fun _ _ => trivial
  | some r => exact (h.setReg r _).mono fun k hk => ⟨fun e => hk (congrArg some e.symm), trivial⟩

/-- What reading a 16-bit operand changes: the base register, as R125 says, and nothing else. -/
theorem readOperand_frame {m : Operand} {s t : State} {v : Word} (h : readOperand m s = .ok v t) :
    (∀ k, m.base = some k → t.reg k = m.baseAfter 2 s k) ∧ Unchanged (fun k => m.base ≠ some k) s t := by
  obtain ⟨u, hu, rfl⟩ := readOperand_ok h
  exact ⟨fun k hk => by rw [withBase_reg, if_pos hk], (hu.unchanged _).withBase m 2⟩

-- The frame R160 of an ALU instruction.

/-- An instruction completes that ends by writing `rd`, the flags and PC after its operand was resolved (R160). -/
theorem completesAlu_of_exec {i : Instr} {m : Operand} {size r : Word} {s t : State} {rd : Reg} {f : Flags}
    (hx : exec i s = .next (next (operandLength m) s ((t.setReg rd r).setFl f)))
    (hb : ∀ k, m.base = some k → t.reg k = m.baseAfter size s k) (hu : Unchanged (fun k => m.base ≠ some k) s t) :
    CompletesAlu i m size s rd r f := by
  refine ⟨_, hx, setReg_reg_self .., rfl, ?_, fun k hk hne => ?_, ((hu.setReg rd r).setFl f).setPc _⟩
  · exact congrArg (addrOf s + ·) (operandLength_eq m)
  · exact (setReg_reg_of_ne t r hne).trans (hb k hk)

theorem aluOp_of_readOperand {m : Operand} {s t : State} {v : Word} (h : readOperand m s = .ok v t)
    (rule : Word → Word → Flags → Word × Flags) (rd : Reg) :
    aluOp rule rd m s = .next (next (operandLength m) s
      ((t.setReg rd (rule (s.reg rd) v s.fl).1).setFl (rule (s.reg rd) v s.fl).2)) := by
  simp only [aluOp, h, Res.bind_ok, finish_ok]

theorem aluOp_completes {i : Instr} {m : Operand} {s t : State} {v r : Word} {rd : Reg} {f : Flags}
    {rule : Word → Word → Flags → Word × Flags} (hx : exec i s = aluOp rule rd m s)
    (h : readOperand m s = .ok v t) (hr : rule (s.reg rd) v s.fl = (r, f)) : CompletesAlu i m 2 s rd r f := by
  obtain ⟨hb, hu⟩ := readOperand_frame h
  rw [aluOp_of_readOperand h, hr] at hx
  exact completesAlu_of_exec hx hb hu

-- The rules of LOD, AND, ORR, EOR and NOT: `NZ(r)`, with C and V kept.

theorem Flags.nz_eq (f : Flags) (r : Word) :
    f.nz r = { N := r.getLsbD 15, Z := decide (r.toNat = 0), C := f.C, V := f.V } := by
  have hz : (r == 0) = decide (r.toNat = 0) := decide_eq_decide.2 (BitVec.toNat_inj (y := 0#16)).symm
  rw [Flags.nz, hz, BitVec.msb_eq_getLsbD_last]

/-- NOT is written in the rule as the exclusive or with $FFFF. -/
theorem notRule_eq (a v : Word) (f : Flags) : notRule a v f = (~~~ v, f.nz (~~~ v)) := by
  have hx : v ^^^ 0xFFFF = ~~~ v := BitVec.xor_allOnes
  rw [notRule, hx]

/-- Settles O8: each word decodes to its row, and each row's rule is `NZ(r)` in the frame R160. -/
theorem loadAndLogicResultAndFlags : Obligations.LoadAndLogicResultAndFlags := by
  intro w nw s t v hv m rd a completes
  have hrd : fieldHi w = rd := fieldHi_eq w rd.isLt
  have key {i : Instr} {r : Word} {rule : Word → Word → Flags → Word × Flags} (hd : decodeWords w nw = i)
      (hx : exec i s = aluOp rule rd m s) (hr : rule a v s.fl = (r, s.fl.nz r)) : completes i r :=
    ⟨hd, Flags.nz_eq s.fl r ▸ aluOp_completes hx hv hr⟩
  refine ⟨fun h => ?lod, fun h => ?and, fun h => ?orr, fun h => ?eor, fun h => ?not⟩
  case lod => exact key (hrd ▸ decodeWords_lod nw h) rfl rfl
  case and => exact key (hrd ▸ decodeWords_and nw h) rfl rfl
  case orr => exact key (hrd ▸ decodeWords_orr nw h) rfl rfl
  case eor => exact key (hrd ▸ decodeWords_eor nw h) rfl rfl
  case not => exact key (hrd ▸ decodeWords_not nw h) rfl (notRule_eq a v s.fl)

end Sys2Proof.Machine
end

section
/-! PROOFS. SEF and CLF (spec/49_processor.md R320, R321): the rows of the opcode map at $AE and $AF, and the assignment of
the flags a mask names, read as `fl or W` and `fl and not W`. -/

namespace Sys2Proof

-- The rows of the opcode map that the low octet selects (30_encoding.md R120).

theorem lowOctet_toNat (w : Word) : (w.extractLsb' 0 8).toNat = w.toNat % 256 := by
  rw [BitVec.extractLsb'_toNat, Nat.shiftRight_zero]

/-- The low octets $90 to $CF are those with `W[7:3]` from 18 to 25, no row of the ALU and AL8 formats. -/
theorem decodeWords_eq_decodeOther {w : Word} (nw : Word) (hlo : 0x90 ≤ w.toNat % 256) (hhi : w.toNat % 256 < 0xD0) :
    decodeWords w nw = decodeOther w nw := by
  have hop : 18 ≤ w.toNat / 8 % 32 ∧ w.toNat / 8 % 32 ≤ 25 := by omega
  simp only [decodeWords, aluOpcode_toNat]
  generalize w.toNat / 8 % 32 = op at hop ⊢
  obtain ⟨h18, h25⟩ := hop
  interval_cases op <;> rfl

theorem decodeWords_sef {w : Word} (nw : Word) (h : w.toNat % 256 = 0xAE) :
    decodeWords w nw = .sef (w.extractLsb' 12 4) := by
  rw [decodeWords_eq_decodeOther nw (by omega) (by omega)]
  simp only [decodeOther, lowOctet_toNat, h]

theorem decodeWords_clf {w : Word} (nw : Word) (h : w.toNat % 256 = 0xAF) :
    decodeWords w nw = .clf (w.extractLsb' 12 4) := by
  rw [decodeWords_eq_decodeOther nw (by omega) (by omega)]
  simp only [decodeOther, lowOctet_toNat, h]

-- The field `W[15:12]`.

theorem topNibble_eq (w : Word) : w.extractLsb' 12 4 = BitVec.ofNat 4 (w.toNat / 4096) :=
  congrArg (BitVec.ofNat 4) (Nat.shiftRight_eq_div_pow w.toNat 12)

theorem topNibble_getLsbD (w : Word) {i : Nat} (h : i < 4) :
    (w.extractLsb' 12 4).getLsbD i = w.getLsbD (12 + i) := by
  rw [BitVec.getLsbD_extractLsb', decide_eq_true h, Bool.true_and]

end Sys2Proof

namespace Sys2Proof.Machine

-- Setting or clearing the flags a mask names, as Boolean operations on each flag.

theorem Flags.assign_true (f : Flags) (m : BitVec 4) : f.assign m true =
    { N := f.N || m.getLsbD 3, Z := f.Z || m.getLsbD 2, C := f.C || m.getLsbD 1, V := f.V || m.getLsbD 0 } := by
  have set (b x : Bool) : (if b then true else x) = (x || b) := by cases b <;> simp
  simp only [Flags.assign, set]

theorem Flags.assign_false (f : Flags) (m : BitVec 4) : f.assign m false =
    { N := f.N && !m.getLsbD 3, Z := f.Z && !m.getLsbD 2, C := f.C && !m.getLsbD 1, V := f.V && !m.getLsbD 0 } := by
  have clear (b x : Bool) : (if b then false else x) = (x && !b) := by cases b <;> simp
  simp only [Flags.assign, clear]

theorem exec_sef (mask : BitVec 4) (s : State) :
    exec (.sef mask) s = .next ((s.setFl (s.fl.assign mask true)).setPc (npc 2 s)) := rfl

theorem exec_clf (mask : BitVec 4) (s : State) :
    exec (.clf mask) s = .next ((s.setFl (s.fl.assign mask false)).setPc (npc 2 s)) := rfl

/-- Settles O23: each word decodes to its row with the mask `W[15:12]`, whose bits are the bits 15 to 12 of the word, and
the row assigns the flags of that mask. -/
theorem sefClfChangeNamedFlags : Obligations.SefClfChangeNamedFlags := by
  intro w nw s mask
  have hmask : w.extractLsb' 12 4 = mask := topNibble_eq w
  have hbit {i : Nat} (h : i < 4) : mask.getLsbD i = w.getLsbD (12 + i) := hmask ▸ topNibble_getLsbD w h
  refine ⟨fun h => ⟨hmask ▸ decodeWords_sef nw h, ?sef⟩, fun h => ⟨hmask ▸ decodeWords_clf nw h, ?clf⟩⟩
  case sef =>
    rw [exec_sef, Flags.assign_true, hbit (i := 3) (by decide), hbit (i := 2) (by decide), hbit (i := 1) (by decide),
      hbit (i := 0) (by decide)]
    rfl
  case clf =>
    rw [exec_clf, Flags.assign_false, hbit (i := 3) (by decide), hbit (i := 2) (by decide), hbit (i := 1) (by decide),
      hbit (i := 0) (by decide)]
    rfl

end Sys2Proof.Machine
end

section
/-! PROOFS. The encoder and the decoder (spec/30_encoding.md R112 to R138): the fields of an encoded word, the row of the
opcode map that the word of each format selects, and the bytes an instruction is read from. -/

namespace Sys2Proof

-- The fields of a word built by appending them (30_encoding.md R111).

@[simp] theorem toReg_ofReg (r : Reg) : toReg (ofReg r) = r := by
  revert r; decide

/-- The index register is the low bit of the mode and `W[9:8]` (30_encoding.md R113). -/
theorem toReg_low_index {r : Reg} (h : ¬ 4 ≤ r.val) : toReg (0#1 ++ (ofReg r).extractLsb' 0 2) = r := by
  revert r; decide

theorem toReg_high_index {r : Reg} (h : 4 ≤ r.val) : toReg (1#1 ++ (ofReg r).extractLsb' 0 2) = r := by
  revert r; decide

/-- The operand of a word whose mode, register and index fields are those of `m`, followed by the next word of `m`. -/
theorem operandOf_fields {m : Operand} {mode : BitVec 3} {w nw : Word} (hmode : mode = m.fields.1)
    (hmid : w.extractLsb' 10 3 = m.fields.2.1) (hix : w.extractLsb' 8 2 = m.fields.2.2) (hnw : ∀ v ∈ m.next, v = nw) :
    operandOf mode w nw = m := by
  have hbit : w.getLsbD 8 = m.fields.2.2.getLsbD 0 := by rw [← hix]; simp
  subst hmode
  cases m <;> simp_all [operandOf, Operand.fields, Operand.next, fieldMid]
  case indexed r ix =>
    by_cases h4 : 4 ≤ ix.val
    · simp [h4, toReg_high_index h4]
    · simp [h4, toReg_low_index h4]

/-- The word of the ALU and AL8 formats (30_encoding.md R112). -/
abbrev aluWord (op : BitVec 5) (rd : Reg) (m : Operand) : Word :=
  ofReg rd ++ m.fields.2.1 ++ m.fields.2.2 ++ op ++ m.fields.1

/-- The word of the JMP format (30_encoding.md R121). -/
abbrev jmpWord (op : BitVec 8) (m : Operand) : Word := m.fields.1 ++ m.fields.2.1 ++ m.fields.2.2 ++ op

theorem aluWord_opcode (op : BitVec 5) (rd : Reg) (m : Operand) : (aluWord op rd m).extractLsb' 3 5 = op := by
  simp (disch := decide) [-Nat.reduceAdd, BitVec.extractLsb'_append_eq_of_le, BitVec.extractLsb'_append_eq_of_add_le]

theorem fieldHi_aluWord (op : BitVec 5) (rd : Reg) (m : Operand) : fieldHi (aluWord op rd m) = rd := by
  simp (disch := decide) [-Nat.reduceAdd, fieldHi, BitVec.extractLsb'_append_eq_of_le]

theorem aluOperand_aluWord (op : BitVec 5) (rd : Reg) {m : Operand} {nw : Word} (hnw : ∀ v ∈ m.next, v = nw) :
    aluOperand (aluWord op rd m) nw = m := by
  refine operandOf_fields ?_ ?_ ?_ hnw <;>
    simp (disch := decide) [-Nat.reduceAdd, BitVec.extractLsb'_append_eq_of_le, BitVec.extractLsb'_append_eq_of_add_le]

theorem jmpOperand_jmpWord (op : BitVec 8) {m : Operand} {nw : Word} (hnw : ∀ v ∈ m.next, v = nw) :
    jmpOperand (jmpWord op m) nw = m := by
  refine operandOf_fields ?_ ?_ ?_ hnw <;>
    simp (disch := decide) [-Nat.reduceAdd, BitVec.extractLsb'_append_eq_of_le, BitVec.extractLsb'_append_eq_of_add_le]

/-- The word of the formats with a register field and five more bits (30_encoding.md R122, R128, R131). -/
abbrev fiveWord (op : BitVec 8) (hi : BitVec 3) (v : BitVec 5) : Word := hi ++ v ++ op

/-- The word of the formats with two register fields and two more bits (30_encoding.md R118, R123, R124, R130). -/
abbrev regsWord (op : BitVec 8) (hi mid : Reg) (o : BitVec 2) : Word := ofReg hi ++ ofReg mid ++ o ++ op

theorem fieldHi_fiveWord (op : BitVec 8) (r : Reg) (v : BitVec 5) : fieldHi (fiveWord op (ofReg r) v) = r := by
  simp (disch := decide) [-Nat.reduceAdd, fieldHi, BitVec.extractLsb'_append_eq_of_le]

theorem fiveWord_value (op : BitVec 8) (hi : BitVec 3) (v : BitVec 5) : (fiveWord op hi v).extractLsb' 8 5 = v := by
  simp (disch := decide) [-Nat.reduceAdd, BitVec.extractLsb'_append_eq_of_le, BitVec.extractLsb'_append_eq_of_add_le]

theorem fieldHi_regsWord (op : BitVec 8) (hi mid : Reg) (o : BitVec 2) : fieldHi (regsWord op hi mid o) = hi := by
  simp (disch := decide) [-Nat.reduceAdd, fieldHi, BitVec.extractLsb'_append_eq_of_le]

theorem fieldMid_regsWord (op : BitVec 8) (hi mid : Reg) (o : BitVec 2) : fieldMid (regsWord op hi mid o) = mid := by
  simp (disch := decide) [-Nat.reduceAdd, fieldMid, BitVec.extractLsb'_append_eq_of_le, BitVec.extractLsb'_append_eq_of_add_le]

theorem regsWord_bits (op : BitVec 8) (hi mid : Reg) (o : BitVec 2) : (regsWord op hi mid o).extractLsb' 8 2 = o := by
  simp (disch := decide) [-Nat.reduceAdd, BitVec.extractLsb'_append_eq_of_le, BitVec.extractLsb'_append_eq_of_add_le]

theorem swoOpOf_regsWord (op : BitVec 8) (hi mid : Reg) (o : SwoOp) : swoOpOf (regsWord op hi mid o.bits) = o := by
  rw [swoOpOf, regsWord_bits]
  cases o <;> rfl

/-- The word of the SHF and BTT formats (30_encoding.md R115, R129): five more bits, of which bit 4 selects a register. -/
def Count.field : Count → BitVec 5
  | .imm n => 0#1 ++ n
  | .reg r => 2#2 ++ ofReg r

theorem encCount_eq (op : BitVec 8) (rd : Reg) (n : Count) : encCount op rd n = [fiveWord op (ofReg rd) n.field] := by
  cases n <;> rfl

theorem countOf_fiveWord (op : BitVec 8) (hi : BitVec 3) (n : Count) : countOf (fiveWord op hi n.field) = n := by
  have hsel : (fiveWord op hi n.field).getLsbD 12 = n.field.getLsbD 4 := by
    rw [BitVec.getLsbD_append, if_neg (by decide), BitVec.getLsbD_append, if_pos (by decide)]
  rw [countOf, hsel]
  cases n with
  | imm n =>
    have hbit : (0#1 ++ n).getLsbD 4 = false := by rw [BitVec.getLsbD_append, if_neg (by decide)]; rfl
    rw [Count.field, hbit]
    simp (disch := decide) [-Nat.reduceAdd, BitVec.extractLsb'_append_eq_of_le, BitVec.extractLsb'_append_eq_of_add_le]
  | reg r =>
    have hbit : (2#2 ++ ofReg r).getLsbD 4 = true := by rw [BitVec.getLsbD_append, if_neg (by decide)]; rfl
    rw [Count.field, hbit]
    simp (disch := decide) [-Nat.reduceAdd, BitVec.extractLsb'_append_eq_of_le, BitVec.extractLsb'_append_eq_of_add_le]

-- The row a word selects: by `W[7:3]` in the ALU and AL8 formats, else by its low octet (30_encoding.md R112, R120).

/-- The low octets from $90 to $CF select their row whatever the rest of the word is. -/
theorem decodeWords_append {x op : BitVec 8} (nw : Word) (hlo : 0x90 ≤ op.toNat) (hhi : op.toNat < 0xD0) :
    decodeWords (x ++ op) nw = decodeOther (x ++ op) nw := by
  have hop : (x ++ op).toNat % 256 = op.toNat := by
    rw [← lowOctet_toNat, BitVec.extractLsb'_append_eq_right]
  exact decodeWords_eq_decodeOther nw (hop ▸ hlo) (hop ▸ hhi)

-- Whether there is a next word depends on the instruction word alone (30_encoding.md R136).

/-- The operand with another next word. -/
def Operand.withNext (nw : Word) : Operand → Operand
  | .imm _ => .imm nw
  | .abs _ => .abs nw
  | .indOff r _ => .indOff r nw
  | m => m

@[simp] theorem Operand.hasNext_withNext (nw : Word) (m : Operand) : (m.withNext nw).hasNext = m.hasNext := by
  cases m <;> rfl

theorem operandOf_withNext (mode : BitVec 3) (w nw nw' : Word) :
    operandOf mode w nw' = (operandOf mode w nw).withNext nw' := by
  unfold operandOf
  cases w.getLsbD 8 <;> split <;> rfl

theorem hasNext_operandOf (mode : BitVec 3) (w nw nw' : Word) :
    (operandOf mode w nw).hasNext = (operandOf mode w nw').hasNext := by
  rw [operandOf_withNext mode w nw nw', Operand.hasNext_withNext]

theorem hasNext_storeOf {mk : Reg → Operand → Instr} {ui ur : Instr} (hmk : ∀ r m, (mk r m).hasNext = m.hasNext)
    (w nw nw' : Word) : (storeOf mk ui ur w nw).hasNext = (storeOf mk ui ur w nw').hasNext := by
  have hm : aluOperand w nw' = (aluOperand w nw).withNext nw' := operandOf_withNext ..
  unfold storeOf
  rw [hm]
  cases aluOperand w nw <;> simp [Operand.withNext, hmk, Operand.hasNext]

theorem hasNext_decodeOther (w nw nw' : Word) : (decodeOther w nw).hasNext = (decodeOther w nw').hasNext := by
  have hm : (jmpOperand w nw).hasNext = (jmpOperand w nw').hasNext := hasNext_operandOf ..
  unfold decodeOther
  dsimp only
  split <;> first | rfl | exact hm

theorem hasNext_decodeWords (w nw nw' : Word) : (decodeWords w nw).hasNext = (decodeWords w nw').hasNext := by
  have hm : (aluOperand w nw).hasNext = (aluOperand w nw').hasNext := hasNext_operandOf ..
  unfold decodeWords
  split
  all_goals first
    | exact hm
    | exact hasNext_storeOf (fun _ _ => rfl) w nw nw'
    | exact hasNext_decodeOther w nw nw'

-- What decodes to an instruction, and the bytes it is read from.

/-- The words decode to the instruction: the first one, with the second one where there is one. -/
def DecodesTo (ws : List Word) (i : Instr) : Prop :=
  ∃ w, (ws = [w] ∧ i.hasNext = false ∧ decodeWords w 0 = i) ∨ ∃ nw, ws = [w, nw] ∧ i.hasNext = true ∧ decodeWords w nw = i

theorem decode_bytesOf {ws : List Word} {i : Instr} (h : DecodesTo ws i) (rest : List Byte) :
    decode (bytesOf ws ++ rest) = .ok (i, rest) := by
  obtain ⟨w, ⟨rfl, hn, hd⟩ | ⟨nw, rfl, hn, hd⟩⟩ := h
  · have hneed : needsNextWord w = false := by rw [needsNextWord, hd, hn]
    simp only [bytesOf, List.cons_append, List.nil_append, decode, wordOf_bytes, hneed, hd, Bool.false_eq_true, if_false]
  · have hneed : needsNextWord w = true := by rw [needsNextWord, hasNext_decodeWords w 0 nw, hd, hn]
    simp [bytesOf, decode, hneed, hd]

/-- The words of a format with an operand: the instruction word, and the next word of the operand. -/
theorem decodesTo_operand {i : Instr} {m : Operand} {w : Word} (hi : i.operand? = some m)
    (hd : ∀ nw, (∀ v ∈ m.next, v = nw) → decodeWords w nw = i) : DecodesTo (w :: m.next) i := by
  have hn : i.hasNext = m.hasNext := by rw [Instr.hasNext, hi]
  refine ⟨w, ?_⟩
  cases m
  case imm v => exact .inr ⟨v, rfl, hn, hd v (by simp [Operand.next])⟩
  case abs v => exact .inr ⟨v, rfl, hn, hd v (by simp [Operand.next])⟩
  case indOff r v => exact .inr ⟨v, rfl, hn, hd v (by simp [Operand.next])⟩
  all_goals exact .inl ⟨rfl, hn, hd 0 (by simp [Operand.next])⟩

theorem decodesTo_word {i : Instr} {w : Word} (hi : i.operand? = none) (hd : decodeWords w 0 = i) : DecodesTo [w] i :=
  ⟨w, .inl ⟨rfl, by rw [Instr.hasNext, hi], hd⟩⟩

-- The rows of the ALU and AL8 formats.

theorem decodesTo_alu {op : BitVec 5} {rd : Reg} {m : Operand} {mk : Reg → Operand → Instr}
    (hi : (mk rd m).operand? = some m)
    (hrow : ∀ w nw, w.extractLsb' 3 5 = op → decodeWords w nw = mk (fieldHi w) (aluOperand w nw)) :
    DecodesTo (encAlu op rd m) (mk rd m) :=
  decodesTo_operand hi fun nw hnw => by
    rw [hrow _ nw (aluWord_opcode op rd m), fieldHi_aluWord, aluOperand_aluWord op rd hnw]

theorem storeOf_isMemory {mk : Reg → Operand → Instr} {ui ur : Instr} {w nw : Word} {m : Operand}
    (hm : aluOperand w nw = m) (hmem : m.isMemory = true) : storeOf mk ui ur w nw = mk (fieldHi w) m := by
  rw [storeOf, hm]
  cases m <;> first | rfl | cases hmem

theorem decodesTo_store {op : BitVec 5} {rd : Reg} {m : Operand} {mk : Reg → Operand → Instr} {ui ur : Instr}
    (hi : (mk rd m).operand? = some m) (hmem : m.isMemory = true)
    (hrow : ∀ w nw, w.extractLsb' 3 5 = op → decodeWords w nw = storeOf mk ui ur w nw) :
    DecodesTo (encAlu op rd m) (mk rd m) :=
  decodesTo_operand hi fun nw hnw => by
    rw [hrow _ nw (aluWord_opcode op rd m), storeOf_isMemory (aluOperand_aluWord op rd hnw) hmem, fieldHi_aluWord]

-- The rows the low octet selects, format by format.

section
variable {op : BitVec 8} (hlo : 0x90 ≤ op.toNat) (hhi : op.toNat < 0xD0)
include hlo hhi

theorem decodesTo_octet {x : BitVec 8} {i : Instr} (hi : i.operand? = none)
    (hrow : decodeOther (x ++ op) 0 = i) : DecodesTo [x ++ op] i :=
  decodesTo_word hi ((decodeWords_append 0 hlo hhi).trans hrow)

theorem decodesTo_jmp {m : Operand} {mk : Operand → Instr} (hi : (mk m).operand? = some m)
    (hrow : ∀ w nw, w.extractLsb' 0 8 = op → decodeOther w nw = mk (jmpOperand w nw)) : DecodesTo (encJmp op m) (mk m) :=
  decodesTo_operand hi fun nw hnw => by
    rw [decodeWords_append nw hlo hhi, hrow _ nw BitVec.extractLsb'_append_eq_right, jmpOperand_jmpWord op hnw]

theorem decodesTo_hi {x : BitVec 8} {mk : BitVec 8 → Instr} (hi : (mk x).operand? = none)
    (hrow : ∀ w, w.extractLsb' 0 8 = op → decodeOther w 0 = mk (w.extractLsb' 8 8)) : DecodesTo (encHi op x) (mk x) :=
  decodesTo_octet hlo hhi hi ((hrow _ BitVec.extractLsb'_append_eq_right).trans
    (congrArg mk BitVec.extractLsb'_append_eq_left))

theorem decodesTo_count {rd : Reg} {n : Count} {mk : Reg → Count → Instr} (hi : (mk rd n).operand? = none)
    (hrow : ∀ w, w.extractLsb' 0 8 = op → decodeOther w 0 = mk (fieldHi w) (countOf w)) :
    DecodesTo (encCount op rd n) (mk rd n) := by
  rw [encCount_eq]
  exact decodesTo_octet hlo hhi hi ((hrow _ BitVec.extractLsb'_append_eq_right).trans
    (congrArg₂ mk (fieldHi_fiveWord ..) (countOf_fiveWord ..)))

theorem decodesTo_regs {r q : Reg} {o : BitVec 2} {i : Instr} (hi : i.operand? = none)
    (hrow : ∀ w, w.extractLsb' 0 8 = op → fieldHi w = r → fieldMid w = q → w.extractLsb' 8 2 = o → decodeOther w 0 = i) :
    DecodesTo (encRegs op r q o) i :=
  decodesTo_octet hlo hhi hi (hrow _ BitVec.extractLsb'_append_eq_right (fieldHi_regsWord ..) (fieldMid_regsWord ..)
    (regsWord_bits ..))

theorem decodesTo_five {r : Reg} {v : BitVec 5} {i : Instr} (hi : i.operand? = none)
    (hrow : ∀ w, w.extractLsb' 0 8 = op → fieldHi w = r → w.extractLsb' 8 5 = v → decodeOther w 0 = i) :
    DecodesTo (encFive op (ofReg r) v) i :=
  decodesTo_octet hlo hhi hi (hrow _ BitVec.extractLsb'_append_eq_right (fieldHi_fiveWord ..) (fiveWord_value ..))

theorem decodesTo_flags {mask : BitVec 4} {mk : BitVec 4 → Instr} (hi : (mk mask).operand? = none)
    (hrow : ∀ w, w.extractLsb' 0 8 = op → decodeOther w 0 = mk (w.extractLsb' 12 4)) :
    DecodesTo (encFlags op mask) (mk mask) := by
  refine decodesTo_octet hlo hhi hi ((hrow _ BitVec.extractLsb'_append_eq_right).trans (congrArg mk ?_))
  simp (disch := decide) [-Nat.reduceAdd, BitVec.extractLsb'_append_eq_of_le]

end

theorem decodeOther_swo {w : Word} (nw : Word) (h : w.extractLsb' 0 8 = 0xAC) :
    decodeOther w nw = .swo (fieldHi w) (fieldMid w) (swoOpOf w) := by rw [decodeOther, h]; rfl

theorem decodeOther_hwq {w : Word} (nw : Word) (h : w.extractLsb' 0 8 = 0xC4) :
    decodeOther w nw = hwqOf (w.extractLsb' 8 8) := by rw [decodeOther, h]; rfl

/-- HWQ $05 to $FF is the row of its own (30_encoding.md R119). -/
theorem hwqOf_of_le {op : BitVec 8} (h : 5 ≤ op.toNat) : hwqOf op = .hwq op := by
  unfold hwqOf
  split <;> first | omega | rfl

theorem decodesTo_encode {i : Instr} (h : i.wellFormed = true) : DecodesTo (encode i) i := by
  cases i
  case sto rd m => exact decodesTo_store rfl h fun w nw h => by rw [decodeWords, h]; rfl
  case sto8 rd m => exact decodesTo_store rfl h fun w nw h => by rw [decodeWords, h]; rfl
  case lod | add | sub | adc | sbc | mul | div | mli | dvi | mod | mdi | and | orr | eor | not | cmp | neg | lod8 =>
    exact decodesTo_alu rfl fun w nw h => by rw [decodeWords, h]; rfl
  case jmp | jsr | jmu | mml | mms =>
    exact decodesTo_jmp (by decide) (by decide) rfl fun w nw h => by rw [decodeOther, h]; rfl
  case bcc | bcs | bne | beq | bpl | bmi | bvc | bvs | bug | bsg | baw | pshGeneral | popGeneral =>
    exact decodesTo_hi (by decide) (by decide) rfl fun w h => by rw [decodeOther, h]; rfl
  case asl | lsl | rol | rnl | asr | lsr | ror | rnr | bit | btx | btc | bts =>
    exact decodesTo_count (by decide) (by decide) rfl fun w h => by rw [decodeOther, h]; rfl
  case sef | clf => exact decodesTo_flags (by decide) (by decide) rfl fun w h => by rw [decodeOther, h]; rfl
  case swo rd rs op =>
    exact decodesTo_octet (by decide) (by decide) rfl <|
      (decodeOther_swo _ BitVec.extractLsb'_append_eq_right).trans <| by
        rw [fieldHi_regsWord, fieldMid_regsWord, swoOpOf_regsWord]
  case fpa | fps | fpm | fpd | mim | mmr | mmw =>
    exact decodesTo_regs (by decide) (by decide) rfl fun w h hr hq ho => by rw [decodeOther, h, hr, hq, ho]; rfl
  case mia ra => exact decodesTo_regs (by decide) (by decide) rfl fun w h _ hq ho => by rw [decodeOther, h, hq, ho]; rfl
  case tsr | trs =>
    exact decodesTo_five (by decide) (by decide) rfl fun w h hr hv => by rw [decodeOther, h, hr, hv]; rfl
  case inc | dec =>
    exact decodesTo_five (by decide) (by decide) rfl fun w h hr hv => by rw [decodeOther, h, hr, hv]; rfl
  case adi rd v | sbi rd v =>
    exact decodesTo_five (by decide) (by decide) rfl fun w h' hr hv => by
      rw [decodeOther, h', hr, hv]; exact if_neg (of_decide_eq_true h)
  case pshSpecial l =>
    exact decodesTo_five (r := 0) (by decide) (by decide) rfl fun w h _ hv => by rw [decodeOther, h, hv]; rfl
  case popSpecial l =>
    exact decodesTo_five (r := 0) (by decide) (by decide) rfl fun w h' _ hv => by
      rw [decodeOther, h', hv]; exact if_neg (of_decide_eq_true h)
  case hwq op =>
    exact decodesTo_octet (by decide) (by decide) rfl <|
      (decodeOther_hwq _ BitVec.extractLsb'_append_eq_right).trans <| by
        rw [BitVec.extractLsb'_append_eq_left, hwqOf_of_le (of_decide_eq_true h)]
  case undefStoImm | undefStoReg | undefSto8Imm | undefSto8Reg | undefBranchA | undefBranchB | undefBranchC | undefBranchD
      | undefBranchE | rts | undefMim2 | undefMim3 | undefB5 | jcx | hwqCount | hwqQuery | hwqMessage | hwqSetTick
      | hwqGetTime | slp | swi | rti =>
    exact decodesTo_word rfl rfl
  case undefB6 lo => exact decodesTo_word rfl (by revert lo; decide)
  case undefBC lo => exact decodesTo_word rfl (by revert lo; decide)
  case undefC8 lo => exact decodesTo_word rfl (by revert lo; decide)
  case undefE0 lo => exact decodesTo_word rfl (by revert lo; decide)

-- Every pair of words decodes to a well-formed instruction.

theorem storeOf_wellFormed {mk : Reg → Operand → Instr} {ui ur : Instr} (w nw : Word)
    (hmk : ∀ r m, (mk r m).wellFormed = m.isMemory) (hi : ui.wellFormed = true) (hr : ur.wellFormed = true) :
    (storeOf mk ui ur w nw).wellFormed = true := by
  unfold storeOf
  cases aluOperand w nw <;> simp only [hmk, hi, hr, Operand.isMemory]

theorem hwqOf_wellFormed (op : BitVec 8) : (hwqOf op).wellFormed = true := by
  by_cases h : 5 ≤ op.toNat
  · rw [hwqOf_of_le h]
    exact decide_eq_true h
  · unfold hwqOf
    have hlt : op.toNat < 5 := by omega
    interval_cases op.toNat <;> rfl

theorem decodeOther_wellFormed (w nw : Word) : (decodeOther w nw).wellFormed = true := by
  unfold decodeOther
  dsimp only
  split
  case h_53 => exact hwqOf_wellFormed _
  all_goals try rfl
  all_goals split <;> first | rfl | exact decide_eq_true (by assumption)

theorem decodeWords_wellFormed (w nw : Word) : (decodeWords w nw).wellFormed = true := by
  unfold decodeWords
  split
  case h_2 | h_20 => exact storeOf_wellFormed w nw (fun _ _ => rfl) rfl rfl
  case h_21 => exact decodeOther_wellFormed w nw
  all_goals rfl

/-- Settles O56: the words of a well-formed instruction decode to it, format by format, and every row of the decoder is
well-formed. -/
theorem decodeEncodeAgree : Obligations.DecodeEncodeAgree :=
  ⟨fun _ rest h => decode_bytesOf (decodesTo_encode h) rest, decodeWords_wellFormed⟩

end Sys2Proof
end

section
/-! PROOFS. Translation and memory access (spec/20_memory.md): where an access goes, when it faults, and what a byte reads
after a store. -/

namespace Sys2Proof

theorem toNat_append_eq_add {m n : Nat} (x : BitVec m) (y : BitVec n) : (x ++ y).toNat = x.toNat * 2 ^ n + y.toNat := by
  rw [BitVec.toNat_append, ← Nat.shiftLeft_add_eq_or_of_lt y.isLt, Nat.shiftLeft_eq]

end Sys2Proof

namespace Sys2Proof.Machine

-- Internal banks and devices (20_memory.md R74, R83, R84).

/-- The location in an internal bank: the byte where the chip has the bank, else none. -/
theorem internalLoc_clauses (cfg : Params) (b : BankRef) {off : BitVec 12} {n : Nat} (hoff : off.toNat = n) :
    (b.kind = .ram → b.index < cfg.nram → internalLoc cfg b off = .ram (b.index * 4096 + n)) ∧
    (b.kind = .rom → b.index < cfg.nrom → internalLoc cfg b off = .rom (b.index * 4096 + n)) ∧
    (¬ BankExists cfg b → internalLoc cfg b off = .absent) := by
  obtain ⟨kind, index⟩ := b
  subst hoff
  cases kind
  · exact ⟨fun _ h => if_pos h, fun h => (nomatch h), fun h => if_neg h⟩
  · exact ⟨fun h => (nomatch h), fun _ h => if_pos h, fun h => if_neg h⟩

/-- Settles O1: with the MMU off the location is that of the mapped bank. -/
theorem translateMmuOffByBankMap : Obligations.TranslateMmuOffByBankMap := by
  intro s a k hM
  refine ⟨_, translate_of_not_M hM a k, fun j hj => ?_⟩
  have hbank : bankOf a = j := Fin.ext ((bankOf_val a).trans hj.symm)
  rw [hbank]
  exact internalLoc_clauses s.cfg (s.bank j) (offsetOf_toNat a)

/-- Translation while PS.M = 1: the three outcomes of the checks (20_memory.md R73). -/
theorem translate_of_M {s : State} (h : s.ps.M = true) {a : Word} (k : Access) {w0 w1 : Word}
    (h0 : s.mmuWord (mmuLow (bankOf a)) = w0) (h1 : s.mmuWord (mmuHigh (bankOf a)) = w1) :
    translate s a k =
      if w1.getLsbD 12 then .error (.bankFault a false false false)
      else if (!s.ps.S && w1.getLsbD 15) || (decide (k = .write) && w1.getLsbD 14) || (decide (k = .exec) && w1.getLsbD 13)
      then .error (.bankFault a (!s.ps.S && w1.getLsbD 15) (decide (k = .write)) (decide (k = .exec)))
      else .ok (deviceLoc s.cfg (w1.extractLsb' 0 4 ++ w0.extractLsb' 12 4 : BitVec 8).toNat (w0.extractLsb' 0 12).toNat
        (offsetOf a)) := by
  subst h0 h1
  simp only [translate, h, Bool.true_eq_false, if_false]

/-- The bus index is `sel[19:12]` and the bank `sel[11:0]` (20_memory.md R82, R83). -/
theorem selected_eq (w0 w1 : Word) :
    (w1.extractLsb' 0 4 ++ w0.extractLsb' 12 4 : BitVec 8).toNat = (w1.toNat % 16 * 65536 + w0.toNat) / 4096 ∧
      (w0.extractLsb' 0 12).toNat = (w1.toNat % 16 * 65536 + w0.toNat) % 4096 := by
  have h0 := w0.isLt
  simp only [toNat_append_eq_add, BitVec.extractLsb'_toNat, Nat.shiftRight_eq_div_pow]
  omega

/-- Settles O2: past the checks the location is that of the physical address, whose parts are those of `sel`. -/
theorem translateMmuOnByCache : Obligations.TranslateMmuOnByCache := by
  intro s a k l hM hl i0 i1 h0 h1 sel
  rw [translate_of_M hM k (congrArg s.mmuWord (mmuLow_val a i0 h0)) (congrArg s.mmuWord (mmuHigh_val a i1 h1))] at hl
  obtain ⟨hdev, hbank⟩ := selected_eq (s.mmuWord i0) (s.mmuWord i1)
  have hoff := offsetOf_toNat a
  split at hl
  · cases hl
  split at hl
  · cases hl
  injection hl with hl
  subst hl
  rw [hdev, hbank]
  change (sel / 4096 ≠ 0 → deviceLoc s.cfg (sel / 4096) (sel % 4096) (offsetOf a) = _) ∧ _
  refine ⟨fun h => ?_, fun h hn => ?_, fun h b hb => ?_⟩
  · rw [deviceLoc, if_neg h, hoff]
  · have hsel : sel % 4096 = sel := by omega
    rw [deviceLoc, if_pos h, hsel, hn]
  · have hsel : sel % 4096 = sel := by omega
    have hloc : deviceLoc s.cfg (sel / 4096) (sel % 4096) (offsetOf a) = internalLoc s.cfg b (offsetOf a) := by
      rw [deviceLoc, if_pos h, hsel, hb]
    change (b.kind = .ram → b.index < s.cfg.nram → deviceLoc s.cfg (sel / 4096) (sel % 4096) (offsetOf a) = _) ∧ _
    rw [hloc]
    exact internalLoc_clauses s.cfg b hoff

/-- Settles O3: the checks of R73, first P, then the three others, of which an access makes those of its kind. -/
theorem bankFaultCodes : Obligations.BankFaultCodes := by
  intro s a k i1 h1 w1
  by_cases hM : s.ps.M = true
  case neg =>
    rw [translate_of_not_M (by simpa using hM)]
    exact ⟨⟨fun ⟨_, h⟩ => (nomatch h), fun h => absurd h.1 hM⟩, fun _ h => (nomatch h)⟩
  rw [translate_of_M hM k rfl (congrArg s.mmuWord (mmuHigh_val a i1 h1))]
  have hw1 : s.mmuWord i1 = w1 := rfl
  rw [hw1]
  cases hP : w1.getLsbD 12 with
  | true =>
    refine ⟨⟨fun _ => ⟨hM, .inl rfl⟩, fun _ => ⟨_, rfl⟩⟩, fun c hc => ?_⟩
    obtain rfl : Cause.bankFault a false false false = c := by simpa using hc
    exact ⟨false, false, false, rfl, by decide, by decide, fun h => (nomatch h)⟩
  | false =>
    have hu : (!s.ps.S && w1.getLsbD 15) = true ↔ s.ps.S = false ∧ w1.getLsbD 15 = true := by simp
    generalize (!s.ps.S && w1.getLsbD 15) = u at hu ⊢
    rw [← hu]
    simp only [Bool.false_eq_true, if_false]
    cases k with
    | read => cases u <;> simp [hM]
    | write => cases u <;> cases w1.getLsbD 14 <;> simp [hM]
    | exec => cases u <;> cases w1.getLsbD 13 <;> simp [hM]

-- Both bytes of a 16-bit access (20_memory.md R65).

theorem translatePair_of_ok {s : State} {a : Word} {k : Access} {p q : Loc} (h0 : translate s a k = .ok p)
    (h1 : translate s (a + 1) k = .ok q) : translatePair s a k = .ok (p, q) := by
  simp only [translatePair, h0, h1]

theorem translatePair_of_error {s : State} {a : Word} {k : Access} {c : Cause} (h : translate s a k = .error c) :
    translatePair s a k = .error c := by
  simp only [translatePair, h]

theorem translatePair_of_error_high {s : State} {a : Word} {k : Access} {c : Cause} {p : Loc}
    (h0 : translate s a k = .ok p) (h1 : translate s (a + 1) k = .error c) : translatePair s a k = .error c := by
  simp only [translatePair, h0, h1]

theorem readPair_of_error {s : State} {a : Word} {k : Access} {c : Cause} (h : translatePair s a k = .error c) :
    readPair k a s = .raise c s := by
  simp only [readPair, h]

theorem readWord_of_error {s : State} {a : Word} {k : Access} {c : Cause} (h : translatePair s a k = .error c) :
    readWord k a s = .raise c s := by
  simp only [readWord, readPair_of_error h, Res.bind_raise]

theorem writeWord_of_error {s : State} {a v : Word} {c : Cause} (h : translatePair s a .write = .error c) :
    writeWord a v s = .raise c s := by
  simp only [writeWord, writePair, h]

-- Bytes and words that an access finds in RAM or ROM.

/-- The place of a byte an access finds. -/
theorem HoldsByte.place {s : State} {k : Access} {a : Word} {b : Byte} (h : HoldsByte s k a b) :
    ∃ p, translate s a k = .ok p ∧ physRead p s = (b, s) := by
  obtain ⟨p, hp, rfl⟩ | ⟨p, hp, rfl⟩ := h
  · exact ⟨_, hp, rfl⟩
  · exact ⟨_, hp, rfl⟩

theorem readByte_of_holdsByte {s : State} {k : Access} {a : Word} {b : Byte} (h : HoldsByte s k a b) :
    readByte k a s = .ok b s := by
  obtain ⟨p, hp, hr⟩ := h.place
  simp only [readByte, hp, hr]

theorem readPair_of_holdsByte {s : State} {k : Access} {a : Word} {b0 b1 : Byte} (h0 : HoldsByte s k a b0)
    (h1 : HoldsByte s k (a + 1) b1) : readPair k a s = .ok (b0, b1) s := by
  obtain ⟨p, hp, hr⟩ := h0.place
  obtain ⟨q, hq, hr'⟩ := h1.place
  simp only [readPair, translatePair_of_ok hp hq, hr, hr']

theorem readWord_of_holdsByte {s : State} {k : Access} {a : Word} {b0 b1 : Byte} (h0 : HoldsByte s k a b0)
    (h1 : HoldsByte s k (a + 1) b1) : readWord k a s = .ok (wordOf b0 b1) s := by
  simp only [readWord, readPair_of_holdsByte h0 h1, Res.bind_ok]

theorem readWord_of_holdsWord {s : State} {a v : Word} (h : HoldsWord s a v) : readWord .read a s = .ok v s :=
  (readWord_of_holdsByte h.1 h.2).trans (congrArg (Res.ok · s) (wordOf_bytes v))

/-- What an access finds depends on translation and on the contents of memory only. -/
theorem HoldsByte.congr {s t : State} {k : Access} {a : Word} {b : Byte} (ht : translate t a k = translate s a k)
    (hm : SameMemory s t) : HoldsByte t k a b ↔ HoldsByte s k a b := by
  simp only [HoldsByte, ht, hm.ram, hm.rom]

theorem HoldsWord.congr {s t : State} {a v : Word} (ht : ∀ x, translate t x .read = translate s x .read)
    (hm : SameMemory s t) : HoldsWord t a v ↔ HoldsWord s a v :=
  and_congr (HoldsByte.congr (ht _) hm) (HoldsByte.congr (ht _) hm)

-- Stores.

/-- The bank an A bit belongs to, by the address. -/
theorem eq_mmuHigh_iff {k : Fin 32} {a : Word} : k = mmuHigh (bankOf a) ↔ k.val = 2 * (a.toNat / 4096) + 1 := by
  simp only [Fin.ext_iff, mmuHigh, bankOf_val]

theorem writeWord_of_ok {s : State} {a : Word} {p : Loc × Loc} (h : translatePair s a .write = .ok p) (v : Word) :
    ∃ t, writeWord a v s = .ok () t := by
  simp only [writeWord, writePair, h]
  exact ⟨_, rfl⟩

theorem writeWord_frame {a v : Word} {s t : State} {x : Unit} (h : writeWord a v s = .ok x t) : OnlyStore s t := by
  obtain ⟨_, _, _, hf⟩ := writePair_ok h
  exact hf

/-- Settles O4: the bytes a store leaves are found by the reads, since a store leaves translation as it was. -/
theorem wordRoundTrip : Obligations.WordRoundTrip := by
  intro s a v p q hp hq
  obtain ⟨t, ht⟩ := writeWord_of_ok (translatePair_of_ok hp hq) v
  have hframe := writeWord_frame ht
  have hreads {x : Word} {n : Nat} {b : Byte} (hx : WritesByte s x n) (hb : t.ramByte n = b) : HoldsByte t .read x b :=
    .inl ⟨n, (writePair_translate ht x .read).trans (translate_read_of_write hx), hb⟩
  have hlo : HoldsByte t .read a (loByte v) := hreads hp ((writeWord_ramByte ht p).1 hp)
  have hhi : HoldsByte t .read (a + 1) (hiByte v) := hreads hq ((writeWord_ramByte ht q).2.1 hq)
  refine ⟨t, ht, readWord_of_holdsWord ⟨hlo, hhi⟩, readByte_of_holdsByte hlo, readByte_of_holdsByte hhi,
    fun x hxp hxq => ?other, hframe.romByte, hframe.reg, hframe.status, hframe.fl, hframe.pc, ⟨hframe.ssp, hframe.usp⟩,
    fun k => ?mmu⟩
  case other =>
    refine (writeWord_ramByte ht x).2.2 (fun h => hxp ?_) (fun h => hxq ?_)
    · exact Loc.ram.inj (Except.ok.inj (h.symm.trans hp))
    · exact Loc.ram.inj (Except.ok.inj (h.symm.trans hq))
  case mmu =>
    simp only [writePair_mmuWord ht, eq_mmuHigh_iff]

/-- `SetA` changes no byte of memory, and nothing at all with the MMU off. -/
theorem setAccessed_of_not_M {s : State} (h : s.ps.M = false) (a : Word) : setAccessed a s = s := by
  simp only [setAccessed, h, Bool.false_eq_true, if_false]

/-- Settles O5: both bytes are checked before either moves, and a write to ROM only sets an A bit. -/
theorem faultsAndDroppedWrites : Obligations.FaultsAndDroppedWrites := by
  refine ⟨fun s a v c h => ?_, fun s a v c l h0 h1 => ?_, fun s a c h => ?_, fun s a c l h0 h1 => ?_,
    fun s a b k h => ?_⟩
  · exact writeWord_of_error (translatePair_of_error h)
  · exact writeWord_of_error (translatePair_of_error_high h0 h1)
  · exact readWord_of_error (translatePair_of_error h)
  · exact readWord_of_error (translatePair_of_error_high h0 h1)
  · refine ⟨setAccessed a s, ?_, ⟨setAccessed_ramByte a s, (setAccessed_frame a s).romByte⟩, fun hM => ?_⟩
    · simp only [writeByte, h, physWrite]
    · exact setAccessed_of_not_M hM a

end Sys2Proof.Machine
end

section
/-! PROOFS. Several words pushed and popped (spec/20_memory.md R75): each transfer by what it can do, then lists of them. -/

namespace Sys2Proof.Machine

-- Addresses on the stack, modulo 2^16 (10_state.md R33).

theorem stack_below (a : Word) (m n : Nat) : a - BitVec.ofNat 16 m - BitVec.ofNat 16 n = a - BitVec.ofNat 16 (m + n) := by
  bv_omega

theorem stack_above (a : Word) (m n : Nat) : a + BitVec.ofNat 16 m + BitVec.ofNat 16 n = a + BitVec.ofNat 16 (m + n) := by
  rw [BitVec.add_assoc, ← BitVec.ofNat_add]

theorem stack_from_below (a : Word) (m n : Nat) :
    a - BitVec.ofNat 16 (m + n) + BitVec.ofNat 16 n = a - BitVec.ofNat 16 m := by
  bv_omega

-- One push, as the pair of bytes or as the word.

theorem pushPair_eq_push (lo hi : Byte) (s : State) : pushPair lo hi s = push (wordOf lo hi) s := by
  simp only [push, loByte_wordOf, hiByte_wordOf]

theorem push_of_not_M {s : State} (h : s.ps.M = false) (v : Word) : ∃ t, push v s = .ok () t :=
  pushPair_of_not_M h (loByte v) (hiByte v)

theorem push_onlyPush {v : Word} {s t : State} {x : Unit} (h : push v s = .ok x t) : OnlyPush s t := by
  obtain ⟨_, _, _, _, hp⟩ := push_ok h
  exact hp

/-- The words below the stack pointer after a push, by the stack pointer before it. -/
theorem push_below {v : Word} {s t : State} {x : Unit} (h : push v s = .ok x t) (j : Nat) :
    t.sp - BitVec.ofNat 16 (2 * (j + 1)) = s.sp - BitVec.ofNat 16 (2 * (j + 1 + 1)) := by
  rw [push_sp h]
  exact (stack_below s.sp 2 (2 * (j + 1))).trans (by rw [Nat.mul_succ 2 (j + 1), Nat.add_comm])

theorem OnlyStore.onlyPush {s t : State} (h : OnlyStore s t) : OnlyPush s t where
  eq    := by rw [h.eq]
  store := by have he : { t with ssp := s.ssp, usp := s.usp } = t := by rw [← h.ssp, ← h.usp]
              rw [he]; exact h
  super := fun _ => h.usp
  user  := fun _ => h.ssp

theorem sp_of_S {s : State} (h : s.ps.S = true) : s.sp = s.ssp := if_pos h
theorem sp_of_not_S {s : State} (h : s.ps.S = false) : s.sp = s.usp := if_neg (by simp [h])

-- Several pushes.

/-- What a list of pushes leaves: the frame, the stack pointer, translation. -/
theorem pushWords_ok {ws : List Word} {s t : State} {x : Unit} (h : pushWords ws s = .ok x t) :
    OnlyPush s t ∧ t.sp = s.sp - BitVec.ofNat 16 (2 * ws.length) ∧ SameMmuButAccessed s t ∧
      ∀ a k, translate t a k = translate s a k := by
  induction ws generalizing s with
  | nil => cases h; exact ⟨OnlyPush.refl _, by simp, fun _ => .inl rfl, fun _ _ => rfl⟩
  | cons v l ih =>
    obtain ⟨_, u, hu, h⟩ := Res.bind_eq_ok.1 h
    obtain ⟨hf, hsp, hm, ht⟩ := ih h
    have hp := push_onlyPush hu
    refine ⟨hp.trans hf, ?_, (push_butAccessed hu).trans hp.ps hm, fun a k => (ht a k).trans (push_translate hu a k)⟩
    rw [hsp, push_sp hu]
    exact (stack_below s.sp 2 (2 * l.length)).trans (by rw [List.length_cons, Nat.mul_succ, Nat.add_comm])

/-- The bytes of RAM after a list of pushes: a word stands where no later push overwrites it. -/
theorem pushWords_ramByte {ws : List Word} {s t : State} {x : Unit} (h : pushWords ws s = .ok x t) (k : Nat) :
    (∀ (i : Nat) (hi : i < ws.length),
      (∀ j < ws.length, i < j → ¬ WritesByte s (s.sp - BitVec.ofNat 16 (2 * (j + 1))) k ∧
        ¬ WritesByte s (s.sp - BitVec.ofNat 16 (2 * (j + 1)) + 1) k) →
      (WritesByte s (s.sp - BitVec.ofNat 16 (2 * (i + 1))) k → t.ramByte k = loByte ws[i]) ∧
      (WritesByte s (s.sp - BitVec.ofNat 16 (2 * (i + 1)) + 1) k → t.ramByte k = hiByte ws[i])) ∧
    ((∀ j < ws.length, ¬ WritesByte s (s.sp - BitVec.ofNat 16 (2 * (j + 1))) k ∧
        ¬ WritesByte s (s.sp - BitVec.ofNat 16 (2 * (j + 1)) + 1) k) → t.ramByte k = s.ramByte k) := by
  induction ws generalizing s with
  | nil => cases h; exact ⟨fun _ hi => absurd hi (Nat.not_lt_zero _), fun _ => rfl⟩
  | cons v l ih =>
    obtain ⟨_, u, hu, h⟩ := Res.bind_eq_ok.1 h
    obtain ⟨hlo, hhi, hother⟩ := push_ramByte hu k
    obtain ⟨hwords, hsame⟩ := ih h
    have hw (a : Word) : WritesByte u a k ↔ WritesByte s a k := by rw [WritesByte, push_translate hu, WritesByte]
    simp only [hw, push_below hu] at hwords hsame
    refine ⟨fun i hi hlater => ?_, fun hnone => ?_⟩
    · cases i with
      | zero =>
        have hs := hsame fun j hj => hlater (j + 1) (Nat.succ_lt_succ hj) (Nat.succ_pos j)
        exact ⟨fun hk => hs.trans (hlo hk), fun hk => hs.trans (hhi hk)⟩
      | succ i =>
        exact hwords i (Nat.lt_of_succ_lt_succ hi) fun j hj hij =>
          hlater (j + 1) (Nat.succ_lt_succ hj) (Nat.succ_lt_succ hij)
    · have h0 := hnone 0 (Nat.succ_pos _)
      exact (hsame fun j hj => hnone (j + 1) (Nat.succ_lt_succ hj)).trans (hother h0.1 h0.2)

theorem CanPush.tail {n : Nat} {v : Word} {s t : State} {x : Unit} (h : CanPush (n + 1) s) (ht : push v s = .ok x t) :
    CanPush n t := by
  intro i hi
  obtain ⟨p, hp⟩ := h (i + 1) (Nat.succ_lt_succ hi)
  refine ⟨p, ?_⟩
  rw [push_translatePair ht, push_below ht, hp]

theorem pushWords_of_canPush {ws : List Word} {s : State} (h : CanPush ws.length s) : ∃ t, pushWords ws s = .ok () t := by
  induction ws generalizing s with
  | nil => exact ⟨s, rfl⟩
  | cons v l ih =>
    obtain ⟨p, hp⟩ := h 0 (Nat.succ_pos _)
    obtain ⟨u, hu⟩ := push_of_translate (v := v) hp
    obtain ⟨t, ht⟩ := ih (h.tail hu)
    exact ⟨t, by simp only [pushWords, hu, Res.bind_ok, ht]⟩

/-- The frame of a list of pushes, by the addresses from the final stack pointer up. -/
theorem pushWords_unchangedBut {ws : List Word} {s t : State} {x : Unit} (h : pushWords ws s = .ok x t) :
    UnchangedBut (fun _ => True) s (s.sp - BitVec.ofNat 16 (2 * ws.length)) (2 * ws.length) t := by
  obtain ⟨hf, _, hm, _⟩ := pushWords_ok h
  refine ⟨fun r _ => hf.store.reg r, hf.status, hm, fun k hk => (pushWords_ramByte h k).2 fun j hj => ?_, hf.store.romByte⟩
  have he : 2 * ws.length = 2 * (j + 1) + 2 * (ws.length - 1 - j) := by omega
  have hlo := hk (2 * (ws.length - 1 - j)) (by omega)
  have hhi := hk (2 * (ws.length - 1 - j) + 1) (by omega)
  rw [he, stack_from_below] at hlo
  rw [he, ← stack_above, stack_from_below] at hhi
  exact ⟨hlo, hhi⟩

/-- Two pushed words: the second lies at SP - 4, and the first at SP - 2 where the second does not overwrite it. -/
theorem pushWords_pair {v0 v1 : Word} {s t : State} {x : Unit} (h : pushWords [v0, v1] s = .ok x t) (k : Nat) :
    (WritesByte s (s.sp - 4) k → t.ramByte k = loByte v1) ∧ (WritesByte s (s.sp - 4 + 1) k → t.ramByte k = hiByte v1) ∧
    (¬ WritesByte s (s.sp - 4) k → ¬ WritesByte s (s.sp - 3) k →
      (WritesByte s (s.sp - 2) k → t.ramByte k = loByte v0) ∧ (WritesByte s (s.sp - 1) k → t.ramByte k = hiByte v0)) := by
  have hsub3 : s.sp - 4 + 1 = s.sp - 3 := by bv_omega
  have hsub1 : s.sp - 2 + 1 = s.sp - 1 := by bv_omega
  have hwords := (pushWords_ramByte h k).1
  obtain ⟨hlo, hhi⟩ := hwords 1 (by simp) fun j (hj : j < 2) hij => absurd hij (by omega)
  refine ⟨hlo, hhi, fun h0 h1 => ?_⟩
  rw [← hsub1]
  refine hwords 0 (by simp) fun j (hj : j < 2) hij => ?_
  obtain rfl : j = 1 := by omega
  exact ⟨h0, hsub3 ▸ h1⟩

-- One pop.

/-- Only the current stack pointer, the bus history and the draw counter have changed: the frame of pops. -/
structure OnlyPop (s t : State) : Prop where
  eq    : t = { s with bus := t.bus, free := t.free, ssp := t.ssp, usp := t.usp }
  free  : s.free ≤ t.free
  super : s.ps.S = true → t.usp = s.usp
  user  : s.ps.S = false → t.ssp = s.ssp

theorem OnlyPop.refl (s : State) : OnlyPop s s := ⟨rfl, le_refl _, fun _ => rfl, fun _ => rfl⟩

theorem OnlyPop.ps {s t : State} (h : OnlyPop s t) : t.ps = s.ps := (congrArg State.ps h.eq :)
theorem OnlyPop.cfg {s t : State} (h : OnlyPop s t) : t.cfg = s.cfg := (congrArg State.cfg h.eq :)
theorem OnlyPop.fl {s t : State} (h : OnlyPop s t) : t.fl = s.fl := (congrArg State.fl h.eq :)
theorem OnlyPop.pc {s t : State} (h : OnlyPop s t) : t.pc = s.pc := (congrArg State.pc h.eq :)
theorem OnlyPop.reg {s t : State} (h : OnlyPop s t) (r : Reg) : t.reg r = s.reg r := by
  rw [h.eq]; rfl

theorem OnlyPop.status {s t : State} (h : OnlyPop s t) : SameStatus s t := by
  rw [h.eq]; exact ⟨rfl, rfl, rfl, rfl, rfl, fun _ => rfl, rfl, rfl, rfl, rfl, rfl, rfl⟩

theorem OnlyPop.mmu {s t : State} (h : OnlyPop s t) : SameMmu s t := by
  rw [h.eq]; exact fun _ => rfl

theorem OnlyPop.memory {s t : State} (h : OnlyPop s t) : SameMemory s t := by
  rw [h.eq]; exact ⟨fun _ => rfl, fun _ => rfl⟩

theorem OnlyPop.translate {s t : State} (h : OnlyPop s t) (a : Word) (k : Access) :
    Machine.translate t a k = Machine.translate s a k := by
  rw [h.eq]; rfl

theorem OnlyPop.translatePair {s t : State} (h : OnlyPop s t) (a : Word) (k : Access) :
    Machine.translatePair t a k = Machine.translatePair s a k := by
  rw [h.eq]; rfl

theorem OnlyPop.trans {s t u : State} (h : OnlyPop s t) (g : OnlyPop t u) : OnlyPop s u where
  eq    := by have := g.eq
              rw [h.eq] at this
              exact this
  free  := h.free.trans g.free
  super := fun m => (g.super (by rw [h.ps]; exact m)).trans (h.super m)
  user  := fun m => (g.user (by rw [h.ps]; exact m)).trans (h.user m)

theorem pop_onlyPop {v : Word} {s t : State} (h : pop s = .ok v t) : OnlyPop s t ∧ t.sp = s.sp + 2 := by
  obtain ⟨he, hfree, hsp, hS, hU⟩ := pop_frame h
  exact ⟨⟨he, hfree, hS, hU⟩, hsp⟩

/-- A pop succeeds where its two bytes may be read. -/
theorem pop_of_translate {s : State} {p : Loc × Loc} (h : translatePair s s.sp .read = .ok p) :
    ∃ v t, pop s = .ok v t := by
  simp only [pop, popPair, readPair, h, Res.bind_ok]
  exact ⟨_, _, rfl⟩

/-- A popped word is the one at the stack pointer. -/
theorem pop_value {v w : Word} {s t : State} (h : pop s = .ok v t) (hw : HoldsWord s s.sp w) : v = w := by
  obtain ⟨u, hu, _, _⟩ := pop_ok h
  rw [readWord_of_holdsWord hw] at hu
  cases hu
  rfl

theorem pop_eq_popPair (s : State) : pop s = (popPair s).bind fun b t => .ok (wordOf b.1 b.2) t := rfl

/-- A pop of two bytes is a pop of the word. -/
theorem popPair_of_pop {v : Word} {s t : State} (h : pop s = .ok v t) : popPair s = .ok (loByte v, hiByte v) t := by
  obtain ⟨b, u, hb, he⟩ := Res.bind_eq_ok.1 ((pop_eq_popPair s).symm.trans h)
  cases he
  simpa using hb

-- Several pops.

theorem popWords_cons {n : Nat} {ws : List Word} {s t : State} (h : popWords (n + 1) s = .ok ws t) :
    ∃ v u l, pop s = .ok v u ∧ popWords n u = .ok l t ∧ ws = v :: l := by
  obtain ⟨v, u, hu, h⟩ := Res.bind_eq_ok.1 h
  obtain ⟨l, t', hl, h⟩ := Res.bind_eq_ok.1 h
  cases h
  exact ⟨v, u, l, hu, hl, rfl⟩

theorem popWords_ok {n : Nat} {ws : List Word} {s t : State} (h : popWords n s = .ok ws t) :
    OnlyPop s t ∧ t.sp = s.sp + BitVec.ofNat 16 (2 * n) ∧ ws.length = n := by
  induction n generalizing s ws with
  | zero => cases h; exact ⟨OnlyPop.refl _, by simp, rfl⟩
  | succ n ih =>
    obtain ⟨v, u, l, hu, hl, rfl⟩ := popWords_cons h
    obtain ⟨hf, hsp⟩ := pop_onlyPop hu
    obtain ⟨hf', hsp', hlen⟩ := ih hl
    refine ⟨hf.trans hf', ?_, by rw [List.length_cons, hlen]⟩
    rw [hsp', hsp]
    exact (stack_above s.sp 2 (2 * n)).trans (by rw [Nat.mul_succ, Nat.add_comm])

theorem popWords_value {n : Nat} {ws : List Word} {s t : State} (h : popWords n s = .ok ws t) (i : Nat) (hi : i < ws.length)
    {w : Word} (hw : HoldsWord s (s.sp + BitVec.ofNat 16 (2 * i)) w) : ws[i] = w := by
  induction n generalizing s ws i with
  | zero => cases h; exact absurd hi (Nat.not_lt_zero _)
  | succ n ih =>
    obtain ⟨v, u, l, hu, hl, rfl⟩ := popWords_cons h
    obtain ⟨hf, hsp⟩ := pop_onlyPop hu
    cases i with
    | zero => exact pop_value hu (by simpa using hw)
    | succ i =>
      refine ih hl i (Nat.lt_of_succ_lt_succ hi) ((HoldsWord.congr (fun x => hf.translate x .read) hf.memory).2 ?_)
      rw [hsp]
      exact (stack_above s.sp 2 (2 * i)) ▸ (by rwa [Nat.mul_succ, Nat.add_comm] at hw)

theorem popWords_of_canPop {n : Nat} {s : State} (h : CanPop n s) : ∃ ws t, popWords n s = .ok ws t := by
  induction n generalizing s with
  | zero => exact ⟨[], s, rfl⟩
  | succ n ih =>
    obtain ⟨p, hp⟩ := h 0 (Nat.succ_pos _)
    obtain ⟨v, u, hu⟩ := pop_of_translate (by simpa using hp)
    obtain ⟨hf, hsp⟩ := pop_onlyPop hu
    obtain ⟨l, t, hl⟩ := ih (s := u) fun i hi => by
      obtain ⟨q, hq⟩ := h (i + 1) (Nat.succ_lt_succ hi)
      refine ⟨q, ?_⟩
      rw [hf.translatePair, hsp, ← hq, Nat.mul_succ, Nat.add_comm]
      exact congrArg (Machine.translatePair s · .read) (stack_above s.sp 2 (2 * i))
    exact ⟨v :: l, t, by simp only [popWords, hu, Res.bind_ok, hl]⟩

/-- A word of RAM that a read finds, from where its two bytes lie. -/
theorem holdsWord_of_ram {s : State} {a : Word} {p q : Nat} (h0 : translate s a .read = .ok (.ram p))
    (h1 : translate s (a + 1) .read = .ok (.ram q)) : HoldsWord s a (s.ramByte q ++ s.ramByte p) :=
  ⟨.inl ⟨p, h0, (loByte_wordOf _ _).symm⟩, .inl ⟨q, h1, (hiByte_wordOf _ _).symm⟩⟩

/-- Settles O7: the lists of pushes and of pops by what each transfer can do. -/
theorem stackTransfersMoveWords : Obligations.StackTransfersMoveWords := by
  refine ⟨fun ws s h => ?push, fun n s h => ?pop, fun n s hM => ?mmuOff⟩
  case push =>
    obtain ⟨t, ht⟩ := pushWords_of_canPush h
    obtain ⟨hf, hsp, _, _⟩ := pushWords_ok ht
    refine ⟨t, ht, hsp, hf.super, hf.user, hf.store.fl, hf.store.pc, pushWords_unchangedBut ht, fun i hi k hk => ?_⟩
    refine (pushWords_ramByte ht k).1 i hi fun j hj hij => ?_
    have he : 2 * ws.length = 2 * (j + 1) + 2 * (ws.length - 1 - j) := by omega
    have hlater := hk (ws.length - 1 - j) (by omega)
    rw [he, ← stack_above, stack_from_below] at hlater
    exact hlater
  case pop =>
    obtain ⟨ws, t, ht⟩ := popWords_of_canPop h
    obtain ⟨hf, hsp, hlen⟩ := popWords_ok ht
    exact ⟨ws, t, ht, hlen, hsp, hf.super, hf.user, hf.fl, hf.pc, hf.reg, hf.status, hf.mmu, hf.memory,
      fun i hi p q hp hq => popWords_value ht i hi (holdsWord_of_ram hp hq)⟩
  case mmuOff =>
    exact ⟨fun _ _ => translatePair_of_not_M hM _ _, fun _ _ => translatePair_of_not_M hM _ _⟩

end Sys2Proof.Machine
end

section
/-! PROOFS. The interrupt sequence and Reset (spec/60_exceptions.md R370 to R375, spec/70_reset_and_hazards.md R420): what
the sequence runs through, said once, and what it leaves. -/

namespace Sys2Proof.Machine

-- A read of PS[7:0].

theorem readPsLow_onlyBus (s : State) : OnlyBus s (readPsLow s).2 := by
  unfold readPsLow
  split
  · exact OnlyBus.refl s
  · exact ⟨rfl, Nat.le_succ _⟩

theorem readPsLow_of_clean {s : State} (h : s.psClean = true) : (readPsLow s).1 = 0 := by
  simp only [readPsLow, h, if_true]

-- The state of the handler, before the pushes (60_exceptions.md R370 steps 1 to 3).

/-- The state in which the interrupt sequence pushes: PS, P2 and the bank map of the handler. -/
def entryState (c : Cause) (s : State) : State :=
  c.record (((readPsLow s).2.setPs (c.status s.ps)).setIm (entryMap s.ps s.im))

/-- P2 in the handler (60_exceptions.md R370 step 3). -/
def Cause.p2 (c : Cause) (s : State) : Word :=
  match c with
  | .bankFault a _ _ _ => a
  | _ => s.p2

theorem entryState_eq (c : Cause) (s : State) :
    entryState c s = { s with ps := c.status s.ps, psClean := false, im := entryMap s.ps s.im, p2 := c.p2 s,
                              free := (entryState c s).free } := by
  have h := (readPsLow_onlyBus s).eq
  have hb : (readPsLow s).2.bus = s.bus := by unfold readPsLow; split <;> rfl
  rw [hb] at h
  unfold entryState
  rw [h]
  cases c <;> rfl

theorem entryState_free (c : Cause) (s : State) : s.free ≤ (entryState c s).free := by
  have h := (readPsLow_onlyBus s).free
  unfold entryState
  cases c <;> exact h

@[simp] theorem status_S (c : Cause) (p : Status) : (c.status p).S = true := by cases c <;> rfl
@[simp] theorem status_M (c : Cause) (p : Status) : (c.status p).M = false := by cases c <;> rfl

@[simp] theorem entryState_ps (c : Cause) (s : State) : (entryState c s).ps = c.status s.ps := by rw [entryState_eq]
@[simp] theorem entryState_im (c : Cause) (s : State) : (entryState c s).im = entryMap s.ps s.im := by rw [entryState_eq]
@[simp] theorem entryState_sp (c : Cause) (s : State) : (entryState c s).sp = s.ssp := by
  rw [State.sp, entryState_ps, status_S, if_pos rfl, entryState_eq]

/-- The bank map of the handler, entry by entry (20_memory.md R79). -/
theorem entryMap_get (p : Status) (m : Vector BankRef 16) (k : Fin 16) :
    (entryMap p m).get k =
      if k.val = 0 then ⟨if p.R then .ram else .rom, 0⟩ else if p.M then ⟨.ram, k.val⟩ else m.get k := by
  unfold entryMap
  cases hM : p.M with
  | true =>
    simp only [if_true, defaultMap_get, defaultBank]
  | false =>
    by_cases hk : k.val = 0
    · have : k = 0 := Fin.ext hk
      subst this
      simp [Vector.get_eq_getElem]
    · have : ¬ 0 = k.val := fun h => hk h.symm
      simp [Vector.get_eq_getElem, hk, this]

/-- The interrupt sequence is two pushes and the read of the vector, none of which can fail (R375). -/
theorem takeInterrupt_runs (c : Cause) (ret : Word) (s : State) :
    ∃ s3 v u, pushWords [wordOf (readPsLow s).1 (statusByte s.ps), ret] (entryState c s) = .ok () s3 ∧
      readWord .read (s3.ia + 2 * c.index) s3 = .ok v u ∧ takeInterrupt c ret s = (u.setPc v).setHalted false := by
  obtain ⟨s2, h2⟩ := push_of_not_M (s := entryState c s) (by simp) (wordOf (readPsLow s).1 (statusByte s.ps))
  have hM2 : s2.ps.M = false := by rw [(push_onlyPush h2).ps]; simp
  obtain ⟨s3, h3⟩ := push_of_not_M hM2 ret
  have hM3 : s3.ps.M = false := by rw [(push_onlyPush h3).ps]; exact hM2
  obtain ⟨v, u, hu⟩ := readWord_of_not_M hM3 .read (s3.ia + 2 * c.index)
  refine ⟨s3, v, u, by simp only [pushWords, h2, h3, Res.bind_ok], hu, ?_⟩
  change (match readWord .read ((push ret (pushPair _ _ (entryState c s)).state).state.ia + 2 * c.index)
    (push ret (pushPair _ _ (entryState c s)).state).state with
    | .ok v t => (t.setPc v).setHalted false
    | .raise _ t => t.setHalted false) = _
  rw [pushPair_eq_push, h2, Res.state, h3, Res.state, hu]

/-- What the interrupt sequence leaves, but for PC and the halted state: the pushes change RAM and SSP of the handler's
state, the read of the vector neither. -/
theorem takeInterrupt_frame (c : Cause) (ret : Word) (s : State) :
    ∃ s3 v u, takeInterrupt c ret s = (u.setPc v).setHalted false ∧
      pushWords [wordOf (readPsLow s).1 (statusByte s.ps), ret] (entryState c s) = .ok () s3 ∧
      readWord .read (s3.ia + 2 * c.index) s3 = .ok v u ∧ OnlyBus s3 u ∧ OnlyPush (entryState c s) u := by
  obtain ⟨s3, v, u, h3, hu, ht⟩ := takeInterrupt_runs c ret s
  obtain ⟨_, _, _, hread⟩ := readWord_ok hu
  exact ⟨s3, v, u, ht, h3, hu, hread, (pushWords_ok h3).1.trans hread.store.onlyPush⟩

/-- Every field after the interrupt sequence, but for the contents of RAM, PC, and the model's own counters. -/
theorem takeInterrupt_eq (c : Cause) (ret : Word) (s : State) : ∃ ram pc bus free, s.free ≤ free ∧
    takeInterrupt c ret s = { s with ps := c.status s.ps, psClean := false, im := entryMap s.ps s.im, p2 := c.p2 s,
                                     ssp := s.ssp - 4, halted := false, ram := ram, pc := pc, bus := bus, free := free } := by
  obtain ⟨s3, v, u, ht, h3, -, hread, hf⟩ := takeInterrupt_frame c ret s
  have hS : (entryState c s).ps.S = true := by rw [entryState_ps, status_S]
  have hM : (entryState c s).ps.M = false := by rw [entryState_ps, status_M]
  have hmmu : u.mmu = (entryState c s).mmu := hf.store.off hM
  have hssp : u.ssp = s.ssp - 4 := by
    have hsp : u.sp = s.ssp - 4 := by
      rw [hread.store.sp, (pushWords_ok h3).2.1, entryState_sp]
      rfl
    rwa [sp_of_S (by rw [hf.ps, hS])] at hsp
  refine ⟨u.ram, v, u.bus, u.free, (entryState_free c s).trans hf.store.free, ?_⟩
  rw [ht, hf.eq, hmmu, hssp, hf.super hS, entryState_eq]
  rfl

theorem takeInterrupt_ps (c : Cause) (ret : Word) (s : State) : (takeInterrupt c ret s).ps = c.status s.ps := by
  obtain ⟨_, _, _, _, _, ht⟩ := takeInterrupt_eq c ret s
  rw [ht]

@[simp] theorem takeInterrupt_halted (c : Cause) (ret : Word) (s : State) : (takeInterrupt c ret s).halted = false := by
  obtain ⟨_, _, _, _, _, ht⟩ := takeInterrupt_eq c ret s
  rw [ht]

/-- The memory the interrupt sequence leaves: the old PS at SSP - 2 and the return address at SSP - 4, under the map of the
handler, and the vector that is read there. -/
theorem takeInterrupt_memory (c : Cause) (ret : Word) (s t : State) (ht : t = takeInterrupt c ret s) :
    StoredWord t (s.ssp - 4) ret t ∧
    (∀ k, ¬ WritesByte t (s.ssp - 4) k → ¬ WritesByte t (s.ssp - 3) k →
      (WritesByte t (s.ssp - 2) k → t.ramByte k = (readPsLow s).1) ∧
      (WritesByte t (s.ssp - 1) k → t.ramByte k = statusByte s.ps)) ∧
    (∀ k, (∀ j < 4, ¬ WritesByte t (s.ssp - 4 + BitVec.ofNat 16 j) k) → t.ramByte k = s.ramByte k) ∧
    (∀ k, t.romByte k = s.romByte k) ∧
    ∀ v, HoldsWord t (s.ia + 2 * c.index) v → t.pc = v := by
  obtain ⟨s3, v, u, htake, h3, hu, hread, hf⟩ := takeInterrupt_frame c ret s
  rw [htake] at ht
  obtain ⟨hf3, -, -, htr3⟩ := pushWords_ok h3
  have htr (a : Word) (k : Access) : translate t a k = translate s3 a k := by
    rw [← hread.translate a k, ht]
    exact translate_congr rfl rfl rfl rfl a k
  have hw (a : Word) (k : Nat) : WritesByte t a k ↔ WritesByte (entryState c s) a k := by
    rw [WritesByte, htr, htr3, WritesByte]
  have hram (k : Nat) : t.ramByte k = s3.ramByte k := by rw [ht]; exact hread.ramByte k
  have hrom (k : Nat) : t.romByte k = s3.romByte k := by rw [ht]; exact hread.store.romByte k
  have hpair := pushWords_pair h3
  have hother := (pushWords_unchangedBut h3).memory.1
  simp only [entryState_sp] at hpair hother
  refine ⟨⟨fun k hk => ?_, fun k hk => ?_⟩, fun k h0 h1 => ?_, fun k hk => ?_, fun k => ?_, fun w hv => ?_⟩
  · exact (hram k).trans ((hpair k).1 ((hw _ k).1 hk))
  · exact (hram k).trans ((hpair k).2.1 ((hw _ k).1 hk))
  · obtain ⟨hlo, hhi⟩ := (hpair k).2.2 (fun h => h0 ((hw _ k).2 h)) (fun h => h1 ((hw _ k).2 h))
    rw [hram, hw, hw]
    exact ⟨fun h => (hlo h).trans (loByte_wordOf _ _), fun h => (hhi h).trans (hiByte_wordOf _ _)⟩
  · rw [hram, hother k fun j hj h => hk j hj ((hw _ k).2 h), entryState_eq]
    rfl
  · exact (hrom k).trans ((hf3.store.romByte k).trans (by rw [entryState_eq]; rfl))
  · have hia : s3.ia = s.ia := hf3.status.ia.trans (by rw [entryState_eq])
    have hv3 := (HoldsWord.congr (fun x => htr x .read) ⟨hram, hrom⟩).1 hv
    rw [hia, readWord_of_holdsWord hv3] at hu
    cases hu
    rw [ht]
    rfl

theorem vectorOffset_eq (c : Cause) : 2 * c.index = BitVec.ofNat 16 (2 * (match c with
    | .clock => 1
    | .divideByZero => 2
    | .fpuError => 3
    | .bankFault _ _ _ _ => 5
    | .unprivOpcode => 6
    | .undefOpcode => 7
    | .hwi => 0xC
    | .busRefresh => 0xD
    | .debugQuery => 0xE
    | .swi => 0xF)) := by
  cases c <;> rfl

/-- Settles O51: the fields by what the whole sequence leaves, the memory by its two pushes and the read of the vector. -/
theorem interruptEntryWhole : Obligations.InterruptEntryWhole := by
  intro c ret s t ht index
  obtain ⟨hret, hsaved, hother, hrom, hvector⟩ := takeInterrupt_memory c ret s t ht
  rw [vectorOffset_eq] at hvector
  obtain ⟨ram, pc, bus, free, -, heq⟩ := takeInterrupt_eq c ret s
  rw [heq] at ht
  subst ht
  refine ⟨?ps, ?p2, fun k => (entryMap_get s.ps s.im k).trans rfl, rfl, rfl, rfl, rfl, rfl, rfl, fun _ => rfl, fun _ => rfl,
    rfl, rfl, rfl, rfl, rfl, ⟨(readPsLow s).1, readPsLow_of_clean, hret, hsaved⟩, hother, hrom, hvector⟩
  case ps => cases c <;> rfl
  case p2 => cases c <;> rfl

-- The default bank map.

/-- The chip has every bank of the default map (20_memory.md R78; 00_scope.md R6). -/
theorem defaultBank_exists (cfg : Params) (r : Bool) (k : Fin 16) : BankExists cfg (defaultBank r k) := by
  have hk := k.isLt
  unfold defaultBank
  split
  · cases r
    · exact Nat.lt_of_lt_of_le Nat.zero_lt_one (Nat.le_add_right 1 _)
    · exact Nat.lt_of_lt_of_le (by decide) (Nat.le_add_right 16 _)
  · exact Nat.lt_of_lt_of_le hk (Nat.le_add_right 16 _)

-- Reset.

/-- With the MMU off and ROM bank 0 in entry 0 of the map, the lowest addresses are those of ROM. -/
theorem translate_romBank {s : State} (hM : s.ps.M = false) (hb : s.bank 0 = ⟨.rom, 0⟩) {a : Word} (ha : bankOf a = 0)
    (k : Access) : translate s a k = .ok (.rom (offsetOf a).toNat) := by
  rw [translate_of_not_M hM, ha, hb]
  simp [internalLoc]

/-- Every field after a Reset whose value R420 gives, and what a Reset keeps. -/
theorem performReset_eq (s : State) : ∃ regs fl ii p2 ssp usp mmu,
    performReset s = { s with regs := regs, fl := fl, ps := Status.afterReset, psClean := true,
                              pc := s.romByte 1 ++ s.romByte 0, ia := 0, ii := ii, p2 := p2, ssp := ssp, usp := usp,
                              mmu := mmu, im := defaultMap false, ram := [], ramEpoch := s.free, halted := false,
                              tick := .disabled, free := s.free + 1 } := by
  have hread (t : State) (hM : t.ps.M = false) (hb : t.bank 0 = ⟨.rom, 0⟩) :
      readWord .read 0 t = .ok (t.romByte 1 ++ t.romByte 0) t :=
    readWord_of_holdsByte (.inr ⟨_, translate_romBank hM hb (by decide) .read, rfl⟩)
      (.inr ⟨_, translate_romBank hM hb (by decide) .read, rfl⟩)
  unfold performReset
  dsimp only
  rw [hread _ rfl rfl]
  exact ⟨_, _, _, _, _, _, _, rfl⟩

@[simp] theorem performReset_halted (s : State) : (performReset s).halted = false := by
  obtain ⟨_, _, _, _, _, _, _, h⟩ := performReset_eq s
  rw [h]

theorem performReset_ps (s : State) : (performReset s).ps = Status.afterReset := by
  obtain ⟨_, _, _, _, _, _, _, h⟩ := performReset_eq s
  rw [h]

/-- Settles O53: the fields after a Reset; the state after power on by its definition. -/
theorem resetLeavesKnownState : Obligations.ResetLeavesKnownState := by
  intro s good
  have hmap (k : Fin 16) : (defaultMap false).get k = if k.val = 0 then ⟨.rom, 0⟩ else ⟨.ram, k.val⟩ :=
    defaultMap_get false k
  obtain ⟨_, _, _, _, _, _, _, h⟩ := performReset_eq s
  rw [h]
  exact ⟨⟨rfl, rfl, rfl, rfl, rfl, hmap, rfl⟩, ⟨rfl, rfl, rfl, rfl, rfl, hmap, rfl⟩, rfl, rfl, rfl⟩

/-- Settles O48: SLP by its own rule; an interrupt and a Reset by the halted bit they leave. -/
theorem slpHalts : Obligations.SlpHalts := by
  intro s
  refine ⟨fun hS => ?slp, fun hh hi => ?halted, fun c ret => takeInterrupt_halted c ret s, performReset_halted s⟩
  case slp =>
    change finish s (requirePriv s _) = _
    rw [requirePriv_of_S hS]
    rfl
  case halted =>
    simp only [step, runStep, hi, runInstr, hh, if_true]

/-- Settles O58: RAM is empty, and every entry of the default map is a bank of the smallest chip. -/
theorem resetHasInv : Obligations.ResetHasInv where
  ramWf    := reset_ram_wf
  ramRange := fun _ h => absurd h List.not_mem_nil
  romWf    := reset_rom_wf
  banks    := fun k => by
    have hb : State.reset.bank k = defaultBank false k := defaultMap_get false k
    rw [hb]
    exact defaultBank_exists _ false k
  clean    := fun _ => rfl
  epoch    := Nat.zero_lt_one

end Sys2Proof.Machine
end

section
/-! PROOFS. What an instruction can do to the state, said once as a chain of elementary updates; and from it, for every step,
the invariant of the machine and the isolation of User mode. -/

namespace Sys2Proof.Machine

-- The elementary updates an instruction is made of.

/-- The updates that only a privileged instruction makes (10_state.md R41). -/
inductive SupervisorUpdate : State → State → Prop
  | ps (s : State) (p : Status) : SupervisorUpdate s (writePs p s)
  | leave (s : State) : SupervisorUpdate s (s.setPs { s.ps with S := false })
  | ia (s : State) (v : Word) : SupervisorUpdate s (s.setIa v)
  | ii (s : State) (v : Word) : SupervisorUpdate s (s.setIi v)
  | p2 (s : State) (v : Word) : SupervisorUpdate s (s.setP2 v)
  | ssp (s : State) (v : Word) : SupervisorUpdate s (s.setSsp v)
  | mmu (s : State) (k : Fin 32) (v : Word) : SupervisorUpdate s (s.setMmu k v)
  | halted (s : State) (b : Bool) : SupervisorUpdate s (s.setHalted b)
  | tick (s : State) (t : Tick) : SupervisorUpdate s (s.setTick t)
  | rtcTime (s : State) (t : RtcTime) : SupervisorUpdate s (s.setRtcTime t)
  | message (s : State) (l : List Host.Cell) : SupervisorUpdate s (s.setRam (deviceWrites s.cfg l s.ram))

/-- One elementary update of an instruction that began in Supervisor mode (`sup`) or in User mode. -/
inductive Update (sup : Bool) : State → State → Prop
  | reg (s : State) (r : Reg) (v : Word) : Update sup s (s.setReg r v)
  | fl (s : State) (f : Flags) : Update sup s (s.setFl f)
  | pc (s : State) (v : Word) : Update sup s (s.setPc v)
  | usp (s : State) (v : Word) : Update sup s (s.setUsp v)
  | sp (s : State) (v : Word) : Update sup s (s.setSp v)
  | bus {s t : State} (h : OnlyBus s t) : Update sup s t
  | store {s t : State} {a v : Word} (h : writeWord a v s = .ok () t) : Update sup s t
  | storeByte {s t : State} {a : Word} {v : Byte} (h : writeByte a v s = .ok () t) : Update sup s t
  | supervisor {s t : State} (hsup : sup = true) (h : SupervisorUpdate s t) : Update sup s t

/-- A chain of updates. -/
abbrev Run (sup : Bool) : State → State → Prop := Relation.ReflTransGen (Update sup)

/-- The state an operation leaves, raised or not, is one that a chain of updates leads to. -/
def Reaches {α : Type} (sup : Bool) (s : State) (r : Res α) : Prop := Run sup s r.state

section
variable {sup : Bool} {α β : Type}

theorem Run.one {s t : State} (h : Update sup s t) : Run sup s t := Relation.ReflTransGen.single h

theorem reaches_raise {s t : State} {c : Cause} (h : Run sup s t) : Reaches sup s (.raise c t : Res α) := h
theorem reaches_self (a : α) (s : State) : Reaches sup s (.ok a s) := Relation.ReflTransGen.refl

theorem Reaches.bind {s : State} {r : Res α} {f : α → State → Res β} (h : Reaches sup s r)
    (hf : ∀ a t, Reaches sup t (f a t)) : Reaches sup s (r.bind f) := by
  cases r with
  | ok a t => exact Relation.ReflTransGen.trans h (hf a t)
  | raise c t => exact h

/-- An operation followed by one update. -/
theorem Reaches.then {s : State} {r : Res α} {g : α → State → State} {b : α → β} (h : Reaches sup s r)
    (hg : ∀ a t, Update sup t (g a t)) : Reaches sup s (r.bind fun a t => .ok (b a) (g a t)) :=
  h.bind fun a t => Run.one (hg a t)

/-- An operation after one update. -/
theorem Reaches.after {s t : State} {r : Res α} (h : Reaches sup t r) (hu : Update sup s t) : Reaches sup s r :=
  Relation.ReflTransGen.head hu h

theorem reaches_forEach {f : α → State → Res Unit} (hf : ∀ a s, Reaches sup s (f a s)) (l : List α) (s : State) :
    Reaches sup s (forEach f l s) := by
  induction l generalizing s with
  | nil => exact reaches_self _ s
  | cons a l ih => exact (hf a s).bind fun _ t => ih t

-- Memory and the stack.

theorem reaches_of_onlyBus {s : State} {r : Res α} (hok : ∀ a t, r = .ok a t → OnlyBus s t)
    (hraise : ∀ c t, r = .raise c t → t = s) : Reaches sup s r := by
  cases r with
  | ok a t => exact Run.one (.bus (hok a t rfl))
  | raise c t => rw [hraise c t rfl]; exact Relation.ReflTransGen.refl

theorem reaches_readByte (k : Access) (a : Word) (s : State) : Reaches sup s (readByte k a s) := by
  refine reaches_of_onlyBus (fun v t h => ?_) fun c t h => (readByte_raise h).1
  obtain ⟨_, _, _, _, hf⟩ := readByte_ok h
  exact hf

theorem reaches_readPair (k : Access) (a : Word) (s : State) : Reaches sup s (readPair k a s) := by
  refine reaches_of_onlyBus (fun v t h => ?_) fun c t h => (readPair_raise h).1
  obtain ⟨_, _, _, _, _, hf⟩ := readPair_ok h
  exact hf

theorem reaches_readWord (k : Access) (a : Word) (s : State) : Reaches sup s (readWord k a s) :=
  (reaches_readPair k a s).bind fun _ t => reaches_self _ t

theorem reaches_writeWord (a v : Word) (s : State) : Reaches sup s (writeWord a v s) := by
  cases h : writeWord a v s with
  | ok x t => exact Run.one (.store h)
  | raise c t => rw [(writePair_raise h).1]; exact Relation.ReflTransGen.refl

theorem reaches_writeByte (a : Word) (v : Byte) (s : State) : Reaches sup s (writeByte a v s) := by
  cases h : writeByte a v s with
  | ok x t => exact Run.one (.storeByte h)
  | raise c t => rw [(writeByte_raise h).1]; exact Relation.ReflTransGen.refl

theorem reaches_push (v : Word) (s : State) : Reaches sup s (push v s) :=
  Reaches.then (reaches_writeWord (s.sp - 2) v s) fun _ t => .sp t _

theorem reaches_pushPair (lo hi : Byte) (s : State) : Reaches sup s (pushPair lo hi s) := by
  rw [pushPair_eq_push]; exact reaches_push _ s

theorem reaches_popPair (s : State) : Reaches sup s (popPair s) :=
  (reaches_readPair .read s.sp s).bind fun _ t => Run.one (.sp t _)

theorem reaches_pop (s : State) : Reaches sup s (pop s) :=
  (reaches_popPair s).bind fun _ t => reaches_self _ t

theorem reaches_readArray (a : Word) (n : Nat) (s : State) : Reaches sup s (readArray a n s) := by
  induction n generalizing a s with
  | zero => exact reaches_self _ s
  | succ n ih => exact (reaches_readWord .read a s).bind fun _ t => (ih (a + 2) t).bind fun _ u => reaches_self _ u

theorem reaches_loadMmu (a : Word) (s : State) : Reaches true s (loadMmu a s) :=
  reaches_forEach (fun i t => (reaches_readWord .read _ t).then fun _ u => .supervisor rfl (.mmu u i _)) _ s

theorem reaches_storeMmu (a : Word) (s : State) : Reaches sup s (storeMmu a s) :=
  reaches_forEach (fun _ t => reaches_writeWord _ _ t) _ s

-- Operands.

theorem run_operandUpdate (m : Operand) (size a : Word) (t : State) : Run sup t (operandUpdate size m a t) := by
  unfold operandUpdate
  split
  · exact Run.one (.reg t _ _)
  · exact Run.one (.reg t _ _)
  · exact Relation.ReflTransGen.refl

theorem reaches_readOperand (m : Operand) (s : State) : Reaches sup s (readOperand m s) := by
  unfold readOperand
  split
  · exact reaches_self _ s
  · exact reaches_self _ s
  · split
    · exact (reaches_readWord .read _ s).bind fun _ t => run_operandUpdate _ _ _ t
    · exact reaches_self _ s

theorem reaches_readOperand8 (m : Operand) (s : State) : Reaches sup s (readOperand8 m s) := by
  unfold readOperand8
  split
  · exact reaches_self _ s
  · exact reaches_self _ s
  · split
    · exact (reaches_readByte .read _ s).bind fun _ t => run_operandUpdate _ _ _ t
    · exact reaches_self _ s

theorem reaches_storeOperand (m : Operand) (v : Word) (s : State) : Reaches sup s (storeOperand m v s) := by
  unfold storeOperand
  split
  · exact (reaches_writeWord _ v s).bind fun _ t => run_operandUpdate _ _ _ t
  · exact Relation.ReflTransGen.refl

theorem reaches_storeOperand8 (m : Operand) (v : Byte) (s : State) : Reaches sup s (storeOperand8 m v s) := by
  unfold storeOperand8
  split
  · exact (reaches_writeByte _ v s).bind fun _ t => run_operandUpdate _ _ _ t
  · exact Relation.ReflTransGen.refl

-- The ends of an instruction.

/-- An instruction that began in `s` ends after a chain of updates: with its next state, or with an interrupt. -/
def Ends (sup : Bool) (s : State) (o : Host.Outcome State Fault Refusal) : Prop := ∃ r, o = finish s r ∧ Reaches sup s r

theorem ends_finish {s : State} {r : Res Unit} (h : Reaches sup s r) : Ends sup s (finish s r) := ⟨r, rfl, h⟩
theorem ends_next {s t : State} (h : Run sup s t) : Ends sup s (.next t) := ⟨.ok () t, rfl, h⟩

theorem run_next (len : Nat) (s t : State) : Run sup t (next len s t) := Run.one (.pc t _)

/-- The writes of a register, the flags and PC that end most instructions. -/
theorem run_result (t : State) (r : Reg) (v : Word) (f : Flags) (a : Word) :
    Run sup t (((t.setReg r v).setFl f).setPc a) :=
  ((Run.one (.reg t r v)).tail (.fl _ f)).tail (.pc _ a)

end

theorem reaches_requirePriv {s : State} {k : Res Unit} (h : Reaches true s k) : Reaches s.ps.S s (requirePriv s k) := by
  cases hS : s.ps.S with
  | true => rw [requirePriv_of_S hS]; exact h
  | false => rw [requirePriv_of_not_S hS]; exact Relation.ReflTransGen.refl

-- The instructions, each by its operations.

section
variable (s : State)

theorem ends_aluOp (rule : Word → Word → Flags → Word × Flags) (rd : Reg) (m : Operand) :
    Ends s.ps.S s (aluOp rule rd m s) :=
  ends_finish <| (reaches_readOperand m s).bind fun _ t => run_result t rd _ _ _

theorem ends_mulOp (rule : Word → Word → Flags → BitVec 32 × Flags) (rd : Reg) (m : Operand) :
    Ends s.ps.S s (mulOp rule rd m s) :=
  ends_finish <| (reaches_readOperand m s).bind fun _ t => (Run.one (.reg t 0 _)).trans (run_result _ rd _ _ _)

theorem ends_divOp (rule : Word → Word → Flags → Word × Flags) (rd : Reg) (m : Operand) :
    Ends s.ps.S s (divOp rule rd m s) :=
  ends_finish <| (reaches_readOperand m s).bind fun v t => by
    split
    · exact Relation.ReflTransGen.refl
    · exact run_result t rd _ _ _

theorem ends_bitOp (rule : Word → Nat → Flags → Word × Flags) (rd : Reg) (n : Count) : Ends s.ps.S s (bitOp rule rd n s) :=
  ends_next (run_result s rd _ _ _)

theorem ends_shiftOp (rule : Word → Nat → Flags → Word × Flags) (rd : Reg) (n : Count) :
    Ends s.ps.S s (shiftOp rule rd n s) :=
  ends_next (run_result s rd _ _ _)

theorem ends_immOp (rule : Word → Word → Flags → Word × Flags) (rd : Reg) (v : Word) : Ends s.ps.S s (immOp rule rd v s) :=
  ends_next (run_result s rd _ _ _)

theorem ends_branch (cond : Bool) (off : BitVec 8) : Ends s.ps.S s (branch cond off s) := by
  refine ends_next ?_
  split
  · exact Run.one (.pc s _)
  · exact run_next 2 s s

theorem ends_undefined : Ends s.ps.S s (undefined s) := ends_finish (reaches_raise Relation.ReflTransGen.refl)

theorem reaches_readFloat {sup : Bool} (p : Word) : Reaches sup s (readFloat p s) :=
  (reaches_readWord .read p s).bind fun _ t => (reaches_readWord .read (p + 2) t).bind fun _ u => reaches_self _ u

theorem ends_fpuOp (op : FpOp) (rx ry : Reg) : Ends s.ps.S s (fpuOp op rx ry s) :=
  ends_finish <| (reaches_readFloat s _).bind fun x t => (reaches_readFloat t _).bind fun y u => by
    split
    · exact Reaches.bind ((reaches_push _ u).bind fun _ w => reaches_push _ w) fun _ w =>
        (Run.one (.fl w _)).trans (run_next 2 s _)
    · exact Run.one (.fl u _)

theorem ends_cmp (rd : Reg) (m : Operand) : Ends s.ps.S s (execCmp rd m s) :=
  ends_finish <| (reaches_readOperand m s).bind fun _ t => (Run.one (.fl t _)).trans (run_next _ s _)

theorem ends_lod8 (rd : Reg) (m : Operand) : Ends s.ps.S s (execLod8 rd m s) :=
  ends_finish <| (reaches_readOperand8 m s).bind fun _ t => run_result t rd _ _ _

theorem ends_sto (rd : Reg) (m : Operand) : Ends s.ps.S s (execSto rd m s) :=
  ends_finish <| (reaches_storeOperand m _ s).bind fun _ t => run_next _ s t

theorem ends_sto8 (rd : Reg) (m : Operand) : Ends s.ps.S s (execSto8 rd m s) :=
  ends_finish <| (reaches_storeOperand8 m _ s).bind fun _ t => run_next _ s t

-- Interrupt instructions, jumps and calls.

theorem ends_rti : Ends s.ps.S s (execRti s) :=
  ends_finish <| reaches_requirePriv <| (reaches_pop s).bind fun _ t => (reaches_popPair t).bind fun _ u =>
    (Run.one (.supervisor rfl (.ps u _))).tail (.pc _ _)

theorem ends_swi : Ends s.ps.S s (execSwi s) := by
  refine ends_finish ?_
  split
  · exact Relation.ReflTransGen.refl
  · exact run_next 2 s s

theorem ends_jmp (m : Operand) : Ends s.ps.S s (execJmp m s) :=
  ends_finish <| (reaches_readOperand m s).bind fun _ t => Run.one (.pc t _)

theorem ends_jsr (m : Operand) : Ends s.ps.S s (execJsr m s) :=
  ends_finish <| (reaches_readOperand m s).bind fun _ t => (reaches_push _ t).bind fun _ u => Run.one (.pc u _)

theorem ends_jmu (m : Operand) : Ends s.ps.S s (execJmu m s) :=
  ends_finish <| reaches_requirePriv <| (reaches_readOperand m s).bind fun _ t =>
    (Run.one (.supervisor rfl (.leave t))).tail (.pc _ _)

theorem reaches_popReg {sup : Bool} (r : Reg) : Reaches sup s (popReg r s) :=
  (reaches_pop s).bind fun _ t => Run.one (.reg t r _)

theorem ends_jcx : Ends s.ps.S s (execJcx s) :=
  ends_finish <| reaches_requirePriv <| (reaches_pop s).bind fun a t => (reaches_loadMmu a t).bind fun _ t =>
    Reaches.bind (reaches_forEach (fun r t => reaches_popReg t r) _ t) fun _ t =>
    (reaches_popPair t).bind fun _ t => Reaches.after ((reaches_pop _).bind fun _ t => (reaches_popPair t).bind fun _ t =>
      (Run.one (.supervisor rfl (.ps t _))).tail (.pc _ _)) (.fl t _)

-- PSH, POP, RTS.

theorem reaches_when {sup : Bool} {b : Bool} {f : State → Res Unit} (h : b = true → Reaches sup s (f s)) :
    Reaches sup s (when b f s) := by
  unfold when
  split
  · exact h (by assumption)
  · exact reaches_self _ s

theorem reaches_pushPs {sup : Bool} : Reaches sup s (pushPs s) :=
  (reaches_pushPair _ _ _).after (.bus (readPsLow_onlyBus s))

theorem reaches_pushFl {sup : Bool} : Reaches sup s (pushFl s) :=
  (reaches_push _ _).after (.bus ⟨rfl, Nat.le_succ _⟩)

theorem reaches_popFl {sup : Bool} : Reaches sup s (popFl s) :=
  (reaches_popPair s).bind fun _ t => Run.one (.fl t _)

theorem reaches_popPs {sup : Bool} (h : sup = true) : Reaches sup s (popPs s) :=
  (reaches_popPair s).bind fun _ t => Run.one (.supervisor h (.ps t _))

theorem reaches_popUsp {sup : Bool} : Reaches sup s (popUsp s) :=
  (reaches_pop s).bind fun _ t => Run.one (.usp t _)

theorem reaches_popSp {sup : Bool} : Reaches sup s (popSp s) :=
  (reaches_pop s).bind fun _ t => Run.one (.sp t _)

theorem reaches_endPs {sup : Bool} (b : Bool) (t : State) (pc : Word) : Reaches sup t (endPs b s t pc) := by
  unfold endPs
  split
  · exact Relation.ReflTransGen.refl
  · exact Run.one (.pc t pc)

theorem ends_pshGeneral (l : BitVec 8) : Ends s.ps.S s (execPshGeneral l s) :=
  ends_finish <| Reaches.bind (reaches_forEach (fun _ t => reaches_when t fun _ => reaches_push _ t) _ s) fun _ t =>
    run_next 2 s t

theorem ends_popGeneral (l : BitVec 8) : Ends s.ps.S s (execPopGeneral l s) :=
  ends_finish <| Reaches.bind (reaches_forEach (fun r t => reaches_when t fun _ => reaches_popReg t r) _ s) fun _ t =>
    run_next 2 s t

theorem ends_pshSpecial (l : BitVec 5) : Ends s.ps.S s (execPshSpecial l s) :=
  ends_finish <| (reaches_when s fun _ => reaches_push _ s).bind fun _ t =>
    (reaches_when t fun _ => reaches_push _ t).bind fun _ t =>
    (reaches_when t fun _ => reaches_pushPs t).bind fun _ t =>
    (reaches_when t fun _ => reaches_push _ t).bind fun _ t =>
    (reaches_when t fun _ => reaches_pushFl t).bind fun _ t => reaches_endPs s _ t _

theorem ends_popSpecial (l : BitVec 5) : Ends s.ps.S s (execPopSpecial l s) :=
  ends_finish <| (reaches_when s fun _ => reaches_popFl s).bind fun _ t =>
    Reaches.bind (by split; exacts [reaches_pop t, reaches_self _ t]) fun _ t =>
    (reaches_when t fun h => reaches_popPs t (Bool.and_elim_right h)).bind fun _ t =>
    (reaches_when t fun _ => reaches_popUsp t).bind fun _ t =>
    (reaches_when t fun _ => reaches_popSp t).bind fun _ t => reaches_endPs s _ t _

theorem ends_rts : Ends s.ps.S s (execRts s) :=
  ends_finish <| (reaches_pop s).bind fun _ t => Run.one (.pc t _)

-- The processor functions.

theorem run_setAnswer {sup : Bool} (f : Fin 4 → Word) : Run sup s (setAnswer f s) :=
  (((Run.one (.reg s 0 _)).tail (.reg _ 1 _)).tail (.reg _ 2 _)).tail (.reg _ 3 _)

theorem run_logDraw {sup : Bool} (e : BusEvent) : Run sup s (s.logBus e).draw :=
  Run.one (.bus ⟨rfl, Nat.le_succ _⟩)

theorem run_draws {sup : Bool} : Run sup s s.draw.draw.draw.draw := Run.one (.bus ⟨rfl, Nat.le_add_right _ 4⟩)

theorem ends_hwqCount : Ends s.ps.S s (execHwqCount s) :=
  ends_finish <| reaches_requirePriv <| ((run_logDraw s .count).tail (.reg _ 0 _)).trans (run_next 2 s _)

theorem ends_hwqQuery : Ends s.ps.S s (execHwqQuery s) :=
  ends_finish <| reaches_requirePriv <| ((run_logDraw s _).trans (run_setAnswer _ _)).trans (run_next 2 s _)

theorem ends_hwqMessage : Ends s.ps.S s (execHwqMessage s) :=
  ends_finish <| reaches_requirePriv <|
    (((run_logDraw s _).tail (.supervisor rfl (.message _ _))).trans (run_setAnswer _ _)).trans (run_next 2 s _)

theorem ends_hwqSetTick : Ends s.ps.S s (execHwqSetTick s) :=
  ends_finish <| reaches_requirePriv <| (Run.one (.supervisor rfl (.tick s _))).trans (run_next 2 s _)

theorem ends_hwqGetTime : Ends s.ps.S s (execHwqGetTime s) :=
  ends_finish <| reaches_requirePriv <|
    (((Run.one (.supervisor rfl (.rtcTime s (Config.rtcNow s.free)))).trans (run_draws _)).trans (run_setAnswer _ _)).trans
      (run_next 2 s _)

theorem ends_mmr (rv ra : Reg) : Ends s.ps.S s (execMmr rv ra s) :=
  ends_finish <| reaches_requirePriv <| (Run.one (.reg s rv _)).trans (run_next 2 s _)

theorem ends_mmw (rv ra : Reg) : Ends s.ps.S s (execMmw rv ra s) :=
  ends_finish <| reaches_requirePriv <| (Run.one (.supervisor rfl (.mmu s _ _))).trans (run_next 2 s _)

theorem ends_mml (m : Operand) : Ends s.ps.S s (execMml m s) :=
  ends_finish <| reaches_requirePriv <| (reaches_readOperand m s).bind fun a t =>
    (reaches_storeMmu a t).bind fun _ u => run_next _ s u

theorem ends_mms (m : Operand) : Ends s.ps.S s (execMms m s) :=
  ends_finish <| reaches_requirePriv <| (reaches_readOperand m s).bind fun a t =>
    (reaches_loadMmu a t).bind fun _ u => run_next _ s u

theorem run_readSpecial {sup : Bool} {sr : BitVec 5} {v : Word} {t : State} (h : readSpecial sr s = some (v, t)) :
    Run sup s t := by
  unfold readSpecial at h
  split at h
  case h_5 => cases h; exact Run.one (.bus (readPsLow_onlyBus s))
  all_goals cases h
  all_goals exact Relation.ReflTransGen.refl

theorem ends_tsr (rd : Reg) (sr : BitVec 5) : Ends s.ps.S s (execTsr rd sr s) := by
  refine ends_finish ?_
  split
  · exact Relation.ReflTransGen.refl
  · split
    · exact ((run_readSpecial s (by assumption)).tail (.reg _ rd _)).trans (run_next 2 s _)
    · exact run_next 2 s s

theorem run_writeSpecial {sup : Bool} (sr : BitVec 5) (v : Word) (h : sr ≠ 1#5 → sup = true) :
    Run sup s (writeSpecial sr v s) := by
  unfold writeSpecial
  have hsup {n : Nat} (hn : sr.toNat = n) (hne : n ≠ 1) : sup = true := h fun he => hne (by rw [← hn, he]; rfl)
  split
  · exact Run.one (.sp s v)
  · exact Run.one (.supervisor (hsup (by assumption) (by decide)) (.ia s v))
  · exact Run.one (.supervisor (hsup (by assumption) (by decide)) (.ii s v))
  · exact Run.one (.supervisor (hsup (by assumption) (by decide)) (.ps s _))
  · exact Run.one (.supervisor (hsup (by assumption) (by decide)) (.p2 s v))
  · exact Run.one (.usp s v)
  · exact Run.one (.supervisor (hsup (by assumption) (by decide)) (.ssp s v))
  · exact Relation.ReflTransGen.refl

theorem ends_trs (rs : Reg) (sr : BitVec 5) : Ends s.ps.S s (execTrs rs sr s) := by
  refine ends_finish ?_
  split
  · exact Relation.ReflTransGen.refl
  · rename_i hallow
    split
    · exact Run.one (.pc s _)
    · rename_i h0
      refine Relation.ReflTransGen.trans (run_writeSpecial s sr _ fun h1 => ?_) (run_next 2 s _)
      cases hS : s.ps.S with
      | true => rfl
      | false => exact absurd (by simpa [hS, trsAllowed] using ⟨h0, h1⟩) hallow

theorem ends_slp : Ends s.ps.S s (execSlp s) :=
  ends_finish <| reaches_requirePriv <| (Run.one (.supervisor rfl (.halted s _))).trans (run_next 2 s _)

/-- The bank map that MIM and MIA set: every entry an old one or a bank the chip has (49_processor.md R331, D45). -/
def NewMap (s : State) (m : Vector BankRef 16) : Prop := ∀ k, m.get k = s.bank k ∨ BankExists s.cfg (m.get k)

theorem decodeBank_exists (cfg : Params) (w : Word) : BankExists cfg (decodeBank cfg w) := by
  unfold decodeBank
  split
  · exact Nat.mod_lt _ (Nat.add_pos_left Nat.zero_lt_one _)
  · exact Nat.mod_lt _ (Nat.add_pos_left (by decide) _)

/-- The end of MIM and MIA: a chain of updates, then perhaps a new bank map. -/
def EndsWithMap (s : State) (o : Host.Outcome State Fault Refusal) : Prop :=
  Ends s.ps.S s o ∨ ∃ u m, Run s.ps.S s u ∧ NewMap u m ∧ o = .next (u.setIm m)

theorem ends_mim (rv ra : Reg) : EndsWithMap s (execMim rv ra s) := by
  unfold execMim
  split
  · exact .inl (ends_next (run_next 2 s s))
  · refine .inr ⟨next 2 s s, _, run_next 2 s s, fun k => ?_, rfl⟩
    by_cases hk : (lowNibble (s.reg rv)).toNat = k.val
    · refine .inr ?_
      simp only [State.setBank, Vector.get_eq_getElem, Vector.getElem_set, hk, if_true]
      exact decodeBank_exists s.cfg _
    · refine .inl ?_
      simp only [State.setBank, Vector.get_eq_getElem, Vector.getElem_set, hk, if_false]
      rfl

theorem readArray_onlyBus {a : Word} {n : Nat} {s t : State} {l : List Word} (h : readArray a n s = .ok l t) :
    OnlyBus s t := by
  induction n generalizing a s l with
  | zero => cases h; exact OnlyBus.refl _
  | succ n ih =>
    obtain ⟨w, u, hu, h⟩ := Res.bind_eq_ok.1 h
    obtain ⟨l', t', hl, h⟩ := Res.bind_eq_ok.1 h
    cases h
    obtain ⟨_, _, _, hf⟩ := readWord_ok hu
    exact hf.trans (ih hl)

theorem ofFn_get {α : Type} {n : Nat} (f : Fin n → α) (k : Fin n) : (Vector.ofFn f).get k = f k := by
  simp [Vector.get_eq_getElem]

theorem ends_mia (ra : Reg) : EndsWithMap s (execMia ra s) := by
  unfold execMia
  split
  · exact .inl (ends_next (run_next 2 s s))
  · have hread := reaches_readArray (sup := s.ps.S) (s.reg ra) 16 s
    cases h : readArray (s.reg ra) 16 s with
    | raise c t => exact .inl (ends_finish (by rw [h] at hread; exact hread))
    | ok l t =>
      rw [h] at hread
      have hcfg : t.cfg = s.cfg := (readArray_onlyBus h).store.cfg
      refine .inr ⟨next 2 s t, _, hread.trans (run_next 2 s t), fun k => .inr ?_, rfl⟩
      change BankExists t.cfg ((Vector.ofFn _).get k)
      rw [hcfg, ofFn_get]
      exact decodeBank_exists s.cfg _

/-- How every instruction ends: without a successor state, after a chain of updates, or with a new bank map. -/
theorem exec_ends (i : Instr) : (∃ q, exec i s = .refused q) ∨ EndsWithMap s (exec i s) := by
  cases i
  case mim rv ra => exact .inr (ends_mim s rv ra)
  case mia ra => exact .inr (ends_mia s ra)
  case hwq op =>
    change (∃ q, (if s.ps.S then Host.Outcome.refused _ else _) = _) ∨ EndsWithMap s (if s.ps.S then _ else _)
    split
    · exact .inl ⟨_, rfl⟩
    · exact .inr (.inl (ends_finish Relation.ReflTransGen.refl))
  all_goals refine .inr (.inl ?_)
  case lod | add | sub | adc | sbc | and | orr | eor | not | neg => exact ends_aluOp s _ _ _
  case mul | mli => exact ends_mulOp s _ _ _
  case div | dvi | mod | mdi => exact ends_divOp s _ _ _
  case bit | btx | btc | bts => exact ends_bitOp s _ _ _
  case asl | lsl | rol | rnl | asr | lsr | ror | rnr => exact ends_shiftOp s _ _ _
  case adi | sbi | inc | dec => exact ends_immOp s _ _ _
  case bcc | bcs | bne | beq | bpl | bmi | bvc | bvs | bug | bsg | baw => exact ends_branch s _ _
  case fpa | fps | fpm | fpd => exact ends_fpuOp s _ _ _
  case cmp => exact ends_cmp s _ _
  case lod8 => exact ends_lod8 s _ _
  case sto => exact ends_sto s _ _
  case sto8 => exact ends_sto8 s _ _
  case swo => exact ends_next ((Run.one (.reg s _ _)).trans (run_next 2 s _))
  case sef | clf => exact ends_next ((Run.one (.fl s _)).trans (run_next 2 s _))
  case pshGeneral => exact ends_pshGeneral s _
  case pshSpecial => exact ends_pshSpecial s _
  case popGeneral => exact ends_popGeneral s _
  case popSpecial => exact ends_popSpecial s _
  case rts => exact ends_rts s
  case tsr => exact ends_tsr s _ _
  case trs => exact ends_trs s _ _
  case jmp => exact ends_jmp s _
  case jsr => exact ends_jsr s _
  case jmu => exact ends_jmu s _
  case jcx => exact ends_jcx s
  case hwqCount => exact ends_hwqCount s
  case hwqQuery => exact ends_hwqQuery s
  case hwqMessage => exact ends_hwqMessage s
  case hwqSetTick => exact ends_hwqSetTick s
  case hwqGetTime => exact ends_hwqGetTime s
  case slp => exact ends_slp s
  case swi => exact ends_swi s
  case rti => exact ends_rti s
  case mmr => exact ends_mmr s _ _
  case mmw => exact ends_mmw s _ _
  case mml => exact ends_mml s _
  case mms => exact ends_mms s _
  all_goals exact ends_undefined s

end

-- The invariant of the machine.

/-- The invariant carries over, and the parameters are the same. -/
def KeepsInv (s t : State) : Prop := s.Inv → t.Inv ∧ t.cfg = s.cfg

theorem KeepsInv.refl (s : State) : KeepsInv s s := fun h => ⟨h, rfl⟩

theorem KeepsInv.trans {s t u : State} (h : KeepsInv s t) (g : KeepsInv t u) : KeepsInv s u := fun hi =>
  have ⟨ht, hc⟩ := h hi
  have ⟨hu, hc'⟩ := g ht
  ⟨hu, hc'.trans hc⟩

/-- The fields the invariant speaks of are the same. -/
theorem keepsInv_of_eq {s t : State} (ram : t.ram = s.ram) (cfg : t.cfg = s.cfg) (im : t.im = s.im)
    (clean : t.psClean = s.psClean) (ps : t.ps = s.ps) (epoch : t.ramEpoch = s.ramEpoch) (free : s.free ≤ t.free) :
    KeepsInv s t := fun h =>
  ⟨{ ramWf    := ram ▸ h.ramWf
     ramRange := by rw [ram, cfg]; exact h.ramRange
     romWf    := cfg ▸ h.romWf
     banks    := by unfold State.bank; rw [cfg, im]; exact h.banks
     clean    := by rw [clean, ps]; exact h.clean
     epoch    := epoch ▸ lt_of_lt_of_le h.epoch free }, cfg⟩

theorem OnlyStore.keepsInv {s t : State} (h : OnlyStore s t) : KeepsInv s t := fun hi =>
  ⟨{ ramWf    := h.wf hi.ramWf
     ramRange := fun c hc => h.cfg ▸ (h.range c hc).elim (hi.ramRange c) id
     romWf    := h.cfg ▸ hi.romWf
     banks    := fun k => by rw [h.cfg, h.bank]; exact hi.banks k
     clean    := fun hc => h.ps.trans (hi.clean (h.psClean ▸ hc))
     epoch    := h.ramEpoch ▸ lt_of_lt_of_le hi.epoch h.free }, h.cfg⟩

/-- A new PS and a bank map of banks the chip has. -/
theorem keepsInv_of_ps {s t : State} (ram : t.ram = s.ram) (cfg : t.cfg = s.cfg) (banks : NewMap s t.im)
    (clean : t.psClean = false) (epoch : t.ramEpoch = s.ramEpoch) (free : s.free ≤ t.free) : KeepsInv s t := fun h =>
  ⟨{ ramWf    := ram ▸ h.ramWf
     ramRange := by rw [ram, cfg]; exact h.ramRange
     romWf    := cfg ▸ h.romWf
     banks    := fun k => by
       rw [cfg]
       rcases banks k with hk | hk
       · rw [State.bank, hk]; exact h.banks k
       · exact hk
     clean    := fun hc => by rw [clean] at hc; cases hc
     epoch    := epoch ▸ lt_of_lt_of_le h.epoch free }, cfg⟩

theorem defaultMap_exists (cfg : Params) (r : Bool) (k : Fin 16) : BankExists cfg ((defaultMap r).get k) := by
  rw [defaultMap_get]; exact defaultBank_exists cfg r k

theorem writePs_keepsInv (p : Status) (s : State) : KeepsInv s (writePs p s) := by
  rw [writePs_eq]
  refine keepsInv_of_ps rfl rfl (fun k => ?_) rfl rfl (le_refl _)
  dsimp only
  split
  · exact .inl rfl
  · exact .inr (defaultMap_exists s.cfg _ k)

theorem deviceWrites_inv (cfg : Params) (l : List Host.Cell) {m : Memory} (hw : Memory.wf ramDefault m)
    (hr : ∀ c ∈ m, c.1 < cfg.nram * 4096) :
    Memory.wf ramDefault (deviceWrites cfg l m) ∧ ∀ c ∈ deviceWrites cfg l m, c.1 < cfg.nram * 4096 := by
  induction l generalizing m with
  | nil => exact ⟨hw, hr⟩
  | cons d l ih =>
    change Memory.wf ramDefault (deviceWrites cfg l (if d.1 < cfg.nram * 4096 then _ else m)) ∧
      ∀ c ∈ deviceWrites cfg l (if d.1 < cfg.nram * 4096 then _ else m), _
    split
    · refine ih (Memory.write_wf _ _ hw) fun c hc => ?_
      rcases Memory.mem_write hc with rfl | hc
      · assumption
      · exact hr c hc
    · exact ih hw hr

theorem SupervisorUpdate.keepsInv {s t : State} (h : SupervisorUpdate s t) : KeepsInv s t := by
  cases h
  case ps p => exact writePs_keepsInv p s
  case leave => exact keepsInv_of_ps rfl rfl (fun _ => .inl rfl) rfl rfl (le_refl _)
  case message l =>
    intro hi
    obtain ⟨hw, hr⟩ := deviceWrites_inv s.cfg l hi.ramWf hi.ramRange
    exact ⟨{ hi with ramWf := hw, ramRange := hr }, rfl⟩
  all_goals exact keepsInv_of_eq rfl rfl rfl rfl rfl rfl (le_refl _)

theorem Update.keepsInv {sup : Bool} {s t : State} (h : Update sup s t) : KeepsInv s t := by
  cases h
  case bus h => exact h.store.keepsInv
  case store h => exact (writeWord_frame h).keepsInv
  case storeByte h =>
    obtain ⟨_, _, _, hf⟩ := writeByte_ok h
    exact hf.keepsInv
  case supervisor h => exact h.keepsInv
  case sp v => exact keepsInv_of_eq (by simp) (by simp) (by simp) (by simp) (by simp) (by simp) (by simp)
  all_goals exact keepsInv_of_eq rfl rfl rfl rfl rfl rfl (le_refl _)

theorem Run.keepsInv {sup : Bool} {s t : State} (h : Run sup s t) : KeepsInv s t := by
  induction h with
  | refl => exact KeepsInv.refl s
  | tail _ hu ih => exact ih.trans hu.keepsInv

theorem OnlyPush.keepsInv {s t : State} (h : OnlyPush s t) : KeepsInv s t :=
  h.store.keepsInv.trans (keepsInv_of_eq rfl rfl rfl rfl rfl rfl (le_refl _))

theorem takeInterrupt_keepsInv (c : Cause) (ret : Word) (s : State) : KeepsInv s (takeInterrupt c ret s) := by
  obtain ⟨s3, v, u, ht, -, -, -, hf⟩ := takeInterrupt_frame c ret s
  have hentry : KeepsInv s (entryState c s) := by
    rw [entryState_eq]
    refine keepsInv_of_ps rfl rfl (fun k => ?_) rfl rfl (entryState_free c s)
    dsimp only
    unfold entryMap
    split
    · exact .inr (defaultMap_exists s.cfg _ k)
    · rw [Vector.get_eq_getElem, Vector.getElem_set]
      split
      · refine .inr ?_
        have hb := defaultBank_exists s.cfg s.ps.R 0
        simpa [defaultBank] using hb
      · exact .inl rfl
  rw [ht]
  exact (hentry.trans hf.keepsInv).trans (keepsInv_of_eq rfl rfl rfl rfl rfl rfl (le_refl _))

theorem performReset_keepsInv (s : State) : KeepsInv s (performReset s) := by
  intro hi
  obtain ⟨_, _, _, _, _, _, _, h⟩ := performReset_eq s
  rw [h]
  exact ⟨{ ramWf    := ⟨List.Pairwise.nil, fun _ h => absurd h List.not_mem_nil⟩
           ramRange := fun _ h => absurd h List.not_mem_nil
           romWf    := hi.romWf
           banks    := defaultMap_exists s.cfg false
           clean    := fun _ => rfl
           epoch    := Nat.lt_succ_self _ }, rfl⟩

theorem finish_keepsInv {s t : State} {r : Res Unit} {sup : Bool} (h : Reaches sup s r) (ht : finish s r = .next t) :
    KeepsInv s t := by
  cases r with
  | ok _ u => cases ht; exact Run.keepsInv h
  | raise c u => cases ht; exact (Run.keepsInv h).trans (takeInterrupt_keepsInv c _ u)

theorem exec_keepsInv {i : Instr} {s t : State} (h : exec i s = .next t) : KeepsInv s t := by
  rcases exec_ends s i with ⟨q, hq⟩ | ⟨r, hr, hreach⟩ | ⟨u, m, hrun, hm, hu⟩
  · rw [hq] at h; cases h
  · exact finish_keepsInv hreach (hr.symm.trans h)
  · rw [hu] at h
    cases h
    refine (Run.keepsInv hrun).trans fun hi => ⟨{ hi with banks := fun k => ?_ }, rfl⟩
    rcases hm k with hk | hk
    · have hb := hi.banks k
      rw [← hk] at hb
      exact hb
    · exact hk

-- What a step begins with: a Reset, an event, or an instruction.

theorem reaches_fetchInstr {sup : Bool} (s : State) : Reaches sup s (fetchInstr s) :=
  (reaches_readWord .exec _ s).bind fun _ t => by
    split
    · exact (reaches_readWord .exec _ t).bind fun _ u => reaches_self _ u
    · exact reaches_self _ t

/-- Everything a step can do (00_scope.md R11). -/
theorem step_cases {s t : State} (h : step s = .next t) :
    (∃ g rest, s.inputs = g :: rest ∧ g.reset = true ∧ t = performReset (s.setInputs rest)) ∨
    (∃ g rest c, s.inputs = g :: rest ∧ t = takeEvent c g (s.setInputs rest)) ∨
    ∃ l, runInstr (s.setInputs l) = .next t := by
  unfold step runStep at h
  split at h
  · rename_i hi
    exact .inr (.inr ⟨[], by rw [← hi]; exact h⟩)
  · rename_i g rest hi
    dsimp only at h
    split at h
    · cases h; exact .inl ⟨g, rest, hi, by assumption, rfl⟩
    · split at h
      · cases h; exact .inr (.inl ⟨g, rest, _, hi, rfl⟩)
      · exact .inr (.inr ⟨rest, h⟩)

theorem setInputs_keepsInv (s : State) (l : List Signals) : KeepsInv s (s.setInputs l) :=
  keepsInv_of_eq rfl rfl rfl rfl rfl rfl (le_refl _)

theorem takeEvent_keepsInv (c : Cause) (g : Signals) (s : State) : KeepsInv s (takeEvent c g s) := by
  refine KeepsInv.trans ?_ (takeInterrupt_keepsInv c s.pc (recordIrq c g s))
  cases c <;> exact keepsInv_of_eq rfl rfl rfl rfl rfl rfl (le_refl _)

theorem runInstr_keepsInv {s t : State} (h : runInstr s = .next t) : KeepsInv s t := by
  unfold runInstr at h
  split at h
  · cases h; exact KeepsInv.refl s
  · have hf := reaches_fetchInstr (sup := true) s
    split at h
    · rename_i hi
      rw [hi] at hf
      exact (Run.keepsInv hf).trans (exec_keepsInv h)
    · rename_i hc
      rw [hc] at hf
      exact finish_keepsInv (reaches_raise hf) h

/-- Settles O57: Reset, the interrupt sequence and every chain of updates of an instruction keep the invariant. -/
theorem stepKeepsInv : Obligations.StepKeepsInv := by
  intro s t hi h
  rcases step_cases h with ⟨g, rest, -, -, rfl⟩ | ⟨g, rest, c, -, rfl⟩ | ⟨l, hrun⟩
  · exact ((setInputs_keepsInv s rest).trans (performReset_keepsInv _)) hi
  · exact ((setInputs_keepsInv s rest).trans (takeEvent_keepsInv c g _)) hi
  · exact ((setInputs_keepsInv s l).trans (runInstr_keepsInv hrun)) hi

end Sys2Proof.Machine
end

section
/-! PROOFS. The isolation of User mode (spec/10_state.md R41, spec/60_exceptions.md R400): what no update of an instruction
that began in User mode changes, and so what no step that stays in User mode changes. -/

namespace Sys2Proof.Machine

/-- What User mode cannot change. -/
structure UserKept (s t : State) : Prop where
  ps     : t.ps = s.ps
  ia     : t.ia = s.ia
  ii     : t.ii = s.ii
  p2     : t.p2 = s.p2
  ssp    : t.ssp = s.ssp
  tick   : t.tick = s.tick
  halted : t.halted = s.halted
  cfg    : t.cfg = s.cfg
  mmu    : SameMmuButAccessed s t
  ram    : ∀ k, (∀ a, ¬ WritesByte s a k) → t.ramByte k = s.ramByte k

/-- What no update of User mode changes: besides, where every write leads. -/
structure UserStep (s t : State) : Prop extends UserKept s t where
  places : ∀ a k, WritesByte t a k ↔ WritesByte s a k

theorem userStep_of_eq {s t : State} (ps : t.ps = s.ps) (ia : t.ia = s.ia) (ii : t.ii = s.ii) (p2 : t.p2 = s.p2)
    (ssp : t.ssp = s.ssp) (tick : t.tick = s.tick) (halted : t.halted = s.halted) (cfg : t.cfg = s.cfg)
    (mmu : t.mmu = s.mmu) (im : t.im = s.im) (ram : ∀ k, t.ramByte k = s.ramByte k) : UserStep s t :=
  { ps, ia, ii, p2, ssp, tick, halted, cfg
    mmu    := fun k => .inl (by rw [State.mmuWord, mmu, State.mmuWord])
    ram    := fun k _ => ram k
    places := fun a k => by rw [WritesByte, translate_congr ps mmu im cfg, WritesByte] }

theorem UserStep.refl (s : State) : UserStep s s := userStep_of_eq rfl rfl rfl rfl rfl rfl rfl rfl rfl rfl fun _ => rfl

/-- After updates of User mode, what User mode cannot change then is what it could not change before. -/
theorem UserStep.trans_kept {s t u : State} (h : UserStep s t) (g : UserKept t u) : UserKept s u where
  ps     := g.ps.trans h.ps
  ia     := g.ia.trans h.ia
  ii     := g.ii.trans h.ii
  p2     := g.p2.trans h.p2
  ssp    := g.ssp.trans h.ssp
  tick   := g.tick.trans h.tick
  halted := g.halted.trans h.halted
  cfg    := g.cfg.trans h.cfg
  mmu    := h.mmu.trans h.ps g.mmu
  ram    := fun k hk => (g.ram k fun a ha => hk a ((h.places a k).1 ha)).trans (h.ram k hk)

theorem UserStep.trans {s t u : State} (h : UserStep s t) (g : UserStep t u) : UserStep s u :=
  { h.trans_kept g.toUserKept with places := fun a k => (g.places a k).trans (h.places a k) }

theorem OnlyStore.userStep {s t : State} (h : OnlyStore s t) (mmu : SameMmuButAccessed s t)
    (ram : ∀ k, (∀ a, ¬ WritesByte s a k) → t.ramByte k = s.ramByte k) : UserStep s t := by
  have hlow (j : Fin 16) : t.mmuWord (mmuLow j) = s.mmuWord (mmuLow j) := by
    rcases mmu (mmuLow j) with hj | ⟨-, hodd, -⟩
    · exact hj
    · exact absurd hodd (by simp only [mmuLow]; omega)
  have hs := h.status
  exact { ps := h.ps, ia := hs.ia, ii := hs.ii, p2 := hs.p2, ssp := by rw [h.eq], tick := hs.tick, halted := hs.halted
          cfg := h.cfg, mmu := mmu, ram := ram
          places := fun a k => by rw [WritesByte, h.translate hlow, WritesByte] }

theorem userStep_of_writeWord {a v : Word} {s t : State} (h : writeWord a v s = .ok () t) : UserStep s t :=
  (writeWord_frame h).userStep (writePair_butAccessed h) fun k hk => (writeWord_ramByte h k).2.2 (hk a) (hk (a + 1))

theorem writeByte_ramByte {a : Word} {v : Byte} {s t : State} {x : Unit} (h : writeByte a v s = .ok x t) (k : Nat) :
    (WritesByte s a k → t.ramByte k = v) ∧ (¬ WritesByte s a k → t.ramByte k = s.ramByte k) := by
  obtain ⟨p, hp, rfl, _⟩ := writeByte_ok h
  rw [physWrite_ramByte, setAccessed_ramByte, WritesByte, hp]
  refine ⟨fun hk => if_pos (Except.ok.inj hk), fun hk => if_neg fun e => hk (congrArg _ e)⟩

/-- A store changes the MMU words in A bits only (R86). -/
theorem writeByte_butAccessed {a : Word} {v : Byte} {s t : State} {x : Unit} (h : writeByte a v s = .ok x t) :
    SameMmuButAccessed s t := by
  obtain ⟨p, _, rfl, _⟩ := writeByte_ok h
  intro k
  have hk : (physWrite p v (setAccessed a s)).mmuWord k = (setAccessed a s).mmuWord k := by simp [State.mmuWord]
  rw [hk, setAccessed_mmuWord]
  split
  · next hc =>
    obtain ⟨hM, rfl⟩ := hc
    exact .inr ⟨hM, by simp only [mmuHigh]; omega, rfl⟩
  · exact .inl rfl

theorem userStep_of_writeByte {a : Word} {v : Byte} {s t : State} (h : writeByte a v s = .ok () t) : UserStep s t := by
  obtain ⟨_, _, _, hf⟩ := writeByte_ok h
  exact hf.userStep (writeByte_butAccessed h) fun k hk => (writeByte_ramByte h k).2 (hk a)

theorem Update.userStep {s t : State} (hS : s.ps.S = false) (h : Update false s t) : UserStep s t := by
  cases h
  case bus h =>
    have hs := h.store.status
    exact userStep_of_eq hs.ps hs.ia hs.ii hs.p2 (by rw [h.eq]) hs.tick hs.halted hs.cfg h.mmuEq h.store.im h.ramByte
  case store h => exact userStep_of_writeWord h
  case storeByte h => exact userStep_of_writeByte h
  case supervisor hsup _ => cases hsup
  case sp v =>
    have hv : s.setSp v = s.setUsp v := by simp [State.setSp, State.setUsp, hS]
    rw [hv]
    exact userStep_of_eq rfl rfl rfl rfl rfl rfl rfl rfl rfl rfl fun _ => rfl
  all_goals exact userStep_of_eq rfl rfl rfl rfl rfl rfl rfl rfl rfl rfl fun _ => rfl

theorem Run.userStep {s t : State} (hS : s.ps.S = false) (h : Run false s t) : UserStep s t := by
  induction h with
  | refl => exact UserStep.refl s
  | tail _ hu ih => exact ih.trans (hu.userStep (by rw [ih.ps, hS]))

/-- How an instruction of User mode ends: in a state User mode can reach, or in the interrupt sequence from such a state. -/
def UserEnds (s t : State) : Prop := UserKept s t ∨ ∃ c ret u, t = takeInterrupt c ret u ∧ UserKept s u

theorem finish_userEnds {s t : State} {r : Res Unit} (hS : s.ps.S = false) (h : Reaches false s r)
    (ht : finish s r = .next t) : UserEnds s t := by
  cases r with
  | ok _ u => cases ht; exact .inl (Run.userStep hS h).toUserKept
  | raise c u => cases ht; exact .inr ⟨c, _, u, rfl, (Run.userStep hS h).toUserKept⟩

theorem exec_userEnds {i : Instr} {s t : State} (hS : s.ps.S = false) (h : exec i s = .next t) : UserEnds s t := by
  have hends := exec_ends s i
  rw [EndsWithMap, hS] at hends
  rcases hends with ⟨q, hq⟩ | ⟨r, hr, hreach⟩ | ⟨u, m, hrun, -, hu⟩
  · rw [hq] at h; cases h
  · exact finish_userEnds hS hreach (hr.symm.trans h)
  · rw [hu] at h
    cases h
    have hk := (Run.userStep hS hrun).toUserKept
    exact .inl ⟨hk.ps, hk.ia, hk.ii, hk.p2, hk.ssp, hk.tick, hk.halted, hk.cfg, hk.mmu, hk.ram⟩

theorem UserStep.ends {s t u : State} (h : UserStep s t) (g : UserEnds t u) : UserEnds s u := by
  rcases g with g | ⟨c, ret, v, hv, g⟩
  · exact .inl (h.trans_kept g)
  · exact .inr ⟨c, ret, v, hv, h.trans_kept g⟩

theorem runInstr_userEnds {s t : State} (hS : s.ps.S = false) (h : runInstr s = .next t) : UserEnds s t := by
  unfold runInstr at h
  split at h
  · cases h; exact .inl (UserStep.refl s).toUserKept
  · have hf := reaches_fetchInstr (sup := false) s
    split at h
    · next i u hi =>
      rw [hi] at hf
      have hu := Run.userStep hS hf
      exact hu.ends (exec_userEnds (by rw [hu.ps, hS]) h)
    · next c u hc =>
      rw [hc] at hf
      exact finish_userEnds hS (reaches_raise hf) h

theorem setInputs_userStep (s : State) (l : List Signals) : UserStep s (s.setInputs l) :=
  userStep_of_eq rfl rfl rfl rfl rfl rfl rfl rfl rfl rfl fun _ => rfl

/-- Settles O59: an instruction of User mode is a chain of updates that keep what User mode cannot change; the interrupt
sequence and Reset end in Supervisor mode. -/
theorem userIsolation : Obligations.UserIsolation := by
  intro s t hS h
  rcases step_cases h with ⟨g, rest, hi, hr, rfl⟩ | ⟨g, rest, c, hi, rfl⟩ | ⟨l, hrun⟩
  · refine ⟨fun _ => .inr ⟨g, rest, hi, hr, rfl⟩, fun hu => ?_⟩
    rw [performReset_ps] at hu
    cases hu
  · refine ⟨fun _ => .inl ⟨c, _, recordIrq c g (s.setInputs rest), rfl, ?_⟩, fun hu => ?_⟩
    · cases c <;> exact ⟨rfl, rfl, rfl⟩
    · rw [takeEvent, takeInterrupt_ps, status_S] at hu
      cases hu
  · rcases (setInputs_userStep s l).ends (runInstr_userEnds hS hrun) with hk | ⟨c, ret, u, rfl, hk⟩
    · refine ⟨fun ht => ?_, fun _ => ?_⟩
      · rw [hk.ps, hS] at ht
        cases ht
      · exact ⟨hk.ps, hk.ia, hk.ii, hk.p2, hk.ssp, hk.tick, hk.halted, hk.cfg, hk.mmu, hk.ram⟩
    · refine ⟨fun _ => .inl ⟨c, ret, u, rfl, hk.ps, hk.ia, hk.ssp⟩, fun ht => ?_⟩
      rw [takeInterrupt_ps, status_S] at ht
      cases ht

end Sys2Proof.Machine
end

section
/-! PROOFS. Operands (spec/30_encoding.md R125, R126), the stores STO and STO.8 (spec/40_alu.md R163, R181), and what a fault in
an operand does (spec/60_exceptions.md R372). -/

namespace Sys2Proof.Machine

-- The address of a memory operand, and the access at it.

theorem operandAddr_of_hasAddress {m : Operand} {size a : Word} {s : State} (h : m.HasAddress size s a) :
    operandAddr size m s = some a := by
  cases m
  case imm | reg => exact h.elim
  all_goals exact congrArg some h.symm

theorem readOperand_of_hasAddress {m : Operand} {a : Word} {s : State} (h : m.HasAddress 2 s a) :
    readOperand m s = (readWord .read a s).bind fun v t => .ok v (withBase m 2 s t) := by
  cases m
  case imm | reg => exact h.elim
  all_goals cases h; rfl

theorem readOperand8_of_hasAddress {m : Operand} {a : Word} {s : State} (h : m.HasAddress 1 s a) :
    readOperand8 m s = (readByte .read a s).bind fun v t => .ok v (withBase m 1 s t) := by
  cases m
  case imm | reg => exact h.elim
  all_goals cases h; rfl

theorem storeOperand_of_hasAddress {m : Operand} {a : Word} {s : State} (h : m.HasAddress 2 s a) (v : Word) :
    storeOperand m v s = (writeWord a v s).bind fun _ t => .ok () (withBase m 2 s t) := by
  have ha := operandAddr_of_hasAddress h
  simp only [storeOperand, ha, operandUpdate_eq ha]

theorem storeOperand8_of_hasAddress {m : Operand} {a : Word} {s : State} (h : m.HasAddress 1 s a) (v : Byte) :
    storeOperand8 m v s = (writeByte a v s).bind fun _ t => .ok () (withBase m 1 s t) := by
  have ha := operandAddr_of_hasAddress h
  simp only [storeOperand8, ha, operandUpdate_eq ha]

/-- With the MMU off every operand of one byte can be read (R88). -/
theorem readOperand8_of_not_M {s : State} (h : s.ps.M = false) (m : Operand) : ∃ v t, readOperand8 m s = .ok v t := by
  have hread (a : Word) : ∃ v t, readByte .read a s = .ok v t := by
    rw [readByte, translate_of_not_M h]
    exact ⟨_, _, rfl⟩
  cases m <;> simp only [readOperand8, operandAddr]
  case imm | reg => exact ⟨_, _, rfl⟩
  all_goals
    obtain ⟨v, t, hv⟩ := hread _
    rw [hv]
    exact ⟨_, _, rfl⟩

theorem withBase_fl (m : Operand) (size : Word) (s u : State) : (withBase m size s u).fl = u.fl := by rw [withBase_eq]
theorem withBase_pc (m : Operand) (size : Word) (s u : State) : (withBase m size s u).pc = u.pc := by rw [withBase_eq]

theorem withBase_base {m : Operand} {k : Reg} (h : m.base = some k) (size : Word) (s u : State) :
    (withBase m size s u).reg k = m.baseAfter size s k := by rw [withBase_reg, if_pos h]

/-- The update of the base register alone. -/
theorem withBase_unchanged (m : Operand) (size : Word) (s : State) :
    Unchanged (fun r => m.base ≠ some r) s (withBase m size s s) := ((OnlyBus.refl s).unchanged _).withBase m size

theorem readOperand_fl_pc {m : Operand} {s t : State} {v : Word} (h : readOperand m s = .ok v t) :
    t.fl = s.fl ∧ t.pc = s.pc := by
  obtain ⟨u, hu, rfl⟩ := readOperand_ok h
  exact ⟨(withBase_fl ..).trans hu.store.fl, (withBase_pc ..).trans hu.store.pc⟩

/-- Settles O6: the two modes without an access by their rules, the memory modes by the access at their address. -/
theorem operandValueByMode : Obligations.OperandValueByMode := by
  intro s
  refine ⟨fun v => ⟨rfl, rfl⟩, fun r => ⟨rfl, rfl⟩, fun m a p q h hp hq => ?_, fun m a p h hp => ?_,
    fun hM m => ⟨readOperand_of_not_M hM m, readOperand8_of_not_M hM m⟩⟩
  · refine ⟨withBase m 2 s s, ?_, withBase_reg m 2 s s, withBase_fl .., withBase_pc .., withBase_unchanged m 2 s⟩
    rw [readOperand_of_hasAddress h, readWord_of_holdsByte (.inl ⟨p, hp, rfl⟩) (.inl ⟨q, hq, rfl⟩)]
    rfl
  · refine ⟨withBase m 1 s s, ?_, withBase_reg m 1 s s, withBase_fl .., withBase_pc .., withBase_unchanged m 1 s⟩
    rw [readOperand8_of_hasAddress h, readByte_of_holdsByte (.inl ⟨p, hp, rfl⟩)]
    rfl

-- What a store leaves unchanged.

theorem UnchangedBut.mono {keep keep' : Reg → Prop} {s t : State} {a : Word} {n : Nat} (h : UnchangedBut keep s a n t)
    (hk : ∀ r, keep' r → keep r) : UnchangedBut keep' s a n t := { h with regs := fun r hr => h.regs r (hk r hr) }

theorem UnchangedBut.setFl {keep : Reg → Prop} {s t : State} {a : Word} {n : Nat} (h : UnchangedBut keep s a n t)
    (f : Flags) : UnchangedBut keep s a n (t.setFl f) := ⟨h.regs, { h.status with }, h.mmu, h.memory⟩

theorem UnchangedBut.setPc {keep : Reg → Prop} {s t : State} {a : Word} {n : Nat} (h : UnchangedBut keep s a n t)
    (v : Word) : UnchangedBut keep s a n (t.setPc v) := ⟨h.regs, { h.status with }, h.mmu, h.memory⟩

theorem UnchangedBut.withBase {s t : State} {a : Word} {n : Nat} (h : UnchangedBut (fun _ => True) s a n t) (m : Operand)
    (size : Word) : UnchangedBut (fun k => m.base ≠ some k) s a n (Machine.withBase m size s t) := by
  refine ⟨fun k hk => ?_, ?_, ?_, ?_⟩
  · rw [withBase_reg, if_neg hk, h.regs k trivial]
  all_goals rw [withBase_eq]
  · exact { h.status with }
  · exact h.mmu
  · exact h.memory

theorem writeWord_unchangedBut {a v : Word} {s t : State} {x : Unit} (h : writeWord a v s = .ok x t) :
    UnchangedBut (fun _ => True) s a 2 t where
  regs   := fun r _ => (writeWord_frame h).reg r
  status := (writeWord_frame h).status
  mmu    := writePair_butAccessed h
  memory := ⟨fun k hk => (writeWord_ramByte h k).2.2 (by simpa using hk 0) (by simpa using hk 1), (writeWord_frame h).romByte⟩

theorem writeByte_unchangedBut {a : Word} {v : Byte} {s t : State} {x : Unit} (h : writeByte a v s = .ok x t) :
    UnchangedBut (fun _ => True) s a 1 t := by
  obtain ⟨_, _, _, hf⟩ := writeByte_ok h
  exact { regs := fun r _ => hf.reg r, status := hf.status, mmu := writeByte_butAccessed h
          memory := ⟨fun k hk => (writeByte_ramByte h k).2 (by simpa using hk 0), hf.romByte⟩ }

theorem withBase_sameStacks {m : Operand} {size : Word} {s t : State} (h : OnlyStore s t) :
    SameStacks s (withBase m size s t) := by
  rw [withBase_eq]
  exact ⟨h.ssp, h.usp⟩

theorem withBase_ramByte (m : Operand) (size : Word) (s t : State) (k : Nat) :
    (withBase m size s t).ramByte k = t.ramByte k := by
  rw [withBase_eq]
  rfl

/-- The end of a store: PC at the next instruction. -/
theorem next_pc (m : Operand) (s t : State) : (next (operandLength m) s t).pc = addrOf s + m.len :=
  congrArg (addrOf s + ·) (operandLength_eq m)

/-- Settles O15: the store at the operand's address, then the base register. -/
theorem storeWritesOperand : Obligations.StoreWritesOperand := by
  intro rd m s t a ha h
  have hx : exec (.sto rd m) s = .next (next (operandLength m) s (withBase m 2 s t)) := by
    change finish s ((storeOperand m (s.reg rd) s).bind _) = _
    rw [storeOperand_of_hasAddress ha, h]
    rfl
  refine ⟨_, hx, (withBase_fl ..).trans (writeWord_frame h).fl, next_pc m s _, ?sps, ⟨fun k hk => ?low, fun k hk => ?high⟩,
    fun k hk => withBase_base hk 2 s t, ((writeWord_unchangedBut h).withBase m 2).setPc _⟩
  case sps =>
    have hs := withBase_sameStacks (m := m) (size := 2) (writeWord_frame h)
    exact ⟨hs.ssp, hs.usp⟩
  case low => exact (withBase_ramByte ..).trans ((writeWord_ramByte h k).1 hk)
  case high => exact (withBase_ramByte ..).trans ((writeWord_ramByte h k).2.1 hk)

-- LOD.8.

theorem readOperand8_frame {m : Operand} {s t : State} {v : Byte} (h : readOperand8 m s = .ok v t) :
    (∀ k, m.base = some k → t.reg k = m.baseAfter 1 s k) ∧ Unchanged (fun k => m.base ≠ some k) s t := by
  obtain ⟨u, hu, rfl⟩ := readOperand8_ok h
  exact ⟨fun k hk => withBase_base hk 1 s u, (hu.unchanged _).withBase m 1⟩

theorem lod8Rule_eq (b : Byte) (f : Flags) : lod8Rule b f = (BitVec.ofNat 16 b.toNat,
    { N := decide (128 ≤ b.toNat), Z := decide (b.toNat = 0), C := f.C, V := f.V }) := by
  have hz : (b == 0) = decide (b.toNat = 0) := decide_eq_decide.2 (BitVec.toNat_inj (y := 0#8)).symm
  have hv : b.setWidth 16 = BitVec.ofNat 16 b.toNat := BitVec.eq_of_toNat_eq (by simp)
  rw [lod8Rule, hz, hv, BitVec.msb_eq_decide]

/-- Settles O16: the load by the frame R160, the store at the operand's address. -/
theorem loadStoreOneByte : Obligations.LoadStoreOneByte := by
  refine ⟨fun rd m s t b h => ?load, fun rd m s t a ha h => ?store⟩
  case load =>
    obtain ⟨hb, hu⟩ := readOperand8_frame h
    refine completesAlu_of_exec (t := t) ?_ hb hu
    change finish s ((readOperand8 m s).bind _) = _
    rw [h, Res.bind_ok, finish_ok, lod8Rule_eq]
  case store =>
    obtain ⟨_, _, _, hf⟩ := writeByte_ok h
    have hx : exec (.sto8 rd m) s = .next (next (operandLength m) s (withBase m 1 s t)) := by
      change finish s ((storeOperand8 m (loByte (s.reg rd)) s).bind _) = _
      rw [storeOperand8_of_hasAddress ha, loByte, h]
      rfl
    have hs := withBase_sameStacks (m := m) (size := 1) hf
    exact ⟨_, hx, (withBase_fl ..).trans hf.fl, next_pc m s _, ⟨hs.ssp, hs.usp⟩,
      fun k hk => (withBase_ramByte ..).trans ((writeByte_ramByte h k).1 hk), fun k hk => withBase_base hk 1 s t,
      ((writeByte_unchangedBut h).withBase m 1).setPc _⟩

-- Faults.

theorem translatePair_bankFault {s : State} {a : Word} {k : Access} {c : Cause} (h : translatePair s a k = .error c) :
    ∃ a u w e, c = .bankFault a u w e := by
  rcases translatePair_error h with h | ⟨-, h⟩
  · exact ⟨a, (translate_error h).2⟩
  · exact ⟨a + 1, (translate_error h).2⟩

/-- Reading an 8-bit operand that faults changes nothing (R372). -/
theorem readOperand8_raise {m : Operand} {s t : State} {c : Cause} (h : readOperand8 m s = .raise c t) :
    t = s ∧ ∃ a, translate s a .read = .error c := by
  cases m <;> simp only [readOperand8, operandAddr] at h
  case imm | reg => cases h
  all_goals
    rcases Res.bind_eq_raise.1 h with h | ⟨_, _, _, h⟩
    · exact ⟨(readByte_raise h).1, _, (readByte_raise h).2⟩
    · cases h

/-- An error an instruction raises is taken with the instruction's own address as return address (R371). -/
theorem finish_error {c : Cause} (hc : c ≠ .swi) (s t : State) :
    finish s (.raise c t) = .next (takeInterrupt c (addrOf s) t) := by
  have hret : returnPc c s = addrOf s := by
    cases c
    case swi => exact absurd rfl hc
    all_goals rfl
  rw [finish_raise, hret]

theorem takes_of_finish {i : Instr} {s t : State} {c : Cause} (hx : exec i s = finish s (.raise c t)) (hc : c ≠ .swi) :
    Takes i s c (addrOf s) t := hx.trans (finish_error hc s t)

theorem bankFault_ne_swi {c : Cause} (h : ∃ a u w e, c = .bankFault a u w e) : c ≠ .swi := by
  obtain ⟨_, _, _, _, rfl⟩ := h
  exact Cause.noConfusion

theorem exec_readOperand_first (rd : Reg) (m : Operand) (s : State) :
    ∀ i ∈ [Instr.lod rd m, .add rd m, .sub rd m, .adc rd m, .sbc rd m, .mul rd m, .div rd m, .mli rd m, .dvi rd m, .mod rd m,
      .mdi rd m, .and rd m, .orr rd m, .eor rd m, .not rd m, .cmp rd m, .neg rd m, .jmp m, .jsr m],
    ∃ f, exec i s = finish s ((readOperand m s).bind f) := by
  intro i hi
  fin_cases hi <;> exact ⟨_, rfl⟩

theorem exec_readOperand_first_privileged (m : Operand) (s : State) (hS : s.ps.S = true) :
    ∀ i ∈ [Instr.jmu m, .mml m, .mms m], ∃ f, exec i s = finish s ((readOperand m s).bind f) := by
  intro i hi
  have hpriv {k : Res Unit} : finish s (requirePriv s k) = finish s k := by rw [requirePriv_of_S hS]
  fin_cases hi <;> exact ⟨_, hpriv⟩

/-- Settles O50: every one of these instructions reads or stores its operand first. -/
theorem operandFaultsChangeNothing : Obligations.OperandFaultsChangeNothing := by
  intro rd m s
  refine ⟨fun c t h => ?_, fun c t h => ?_, fun a c ha h => ?_, fun a c ha h => ?_⟩
  · obtain ⟨rfl, a, -, hc⟩ := readOperand_raise h
    have hbank := translatePair_bankFault hc
    have takes {i : Instr} (hi : ∃ f, exec i t = finish t ((readOperand m t).bind f)) : Takes i t c (addrOf t) t := by
      obtain ⟨f, hf⟩ := hi
      rw [h, Res.bind_raise] at hf
      exact takes_of_finish hf (bankFault_ne_swi hbank)
    exact ⟨rfl, hbank, fun i hi => takes (exec_readOperand_first rd m t i hi),
      fun hS i hi => takes (exec_readOperand_first_privileged m t hS i hi)⟩
  · obtain ⟨rfl, a, hc⟩ := readOperand8_raise h
    refine takes_of_finish ?_ (bankFault_ne_swi ⟨a, (translate_error hc).2⟩)
    change finish t ((readOperand8 m t).bind _) = _
    rw [h, Res.bind_raise]
  · refine takes_of_finish ?_ (bankFault_ne_swi (translatePair_bankFault h))
    change finish s ((storeOperand m (s.reg rd) s).bind _) = _
    rw [storeOperand_of_hasAddress ha, writeWord_of_error h]
    rfl
  · refine takes_of_finish ?_ (bankFault_ne_swi ⟨a, (translate_error h).2⟩)
    change finish s ((storeOperand8 m (loByte (s.reg rd)) s).bind _) = _
    rw [storeOperand8_of_hasAddress ha, writeByte, h]
    rfl

end Sys2Proof.Machine
end

section
/-! PROOFS. The arithmetic of the ALU format (spec/40_alu.md R164 to R173, R178, R179, R183): the rule of each instruction as an
operation on words with its flags, and the frames of products and divisions. -/

namespace Sys2Proof.Machine

-- Sums (R164, R166): C and V of the unbounded sum with an incoming carry.

theorem decide_toNat_eq_zero (r : Word) : decide (r.toNat = 0) = decide (r = 0) :=
  decide_eq_decide.2 (BitVec.toNat_inj (y := 0#16))

theorem toInt_eq (a : Word) : a.toInt = if 32768 ≤ a.toNat then (a.toNat : Int) - 65536 else a.toNat := by
  rw [BitVec.toInt_eq_toNat_cond]
  split <;> split <;> omega

theorem toNat_add_carry (a v : Word) (c : Nat) :
    (a + v + BitVec.ofNat 16 c).toNat = (a.toNat + v.toNat + c) % 65536 := by
  simp only [BitVec.toNat_add, BitVec.toNat_ofNat]
  omega

/-- A sum does not fit 16 bits where the operands have one sign and the result the other (D12). -/
theorem overflow_add (a v : Word) {c : Nat} (hc : c ≤ 1) : outside16 (a.toInt + v.toInt + c) =
    (~~~ (a ^^^ v) &&& (a ^^^ (a + v + BitVec.ofNat 16 c))).getLsbD 15 := by
  have hr := toNat_add_carry a v c
  have ha := a.isLt
  have hv := v.isLt
  generalize a + v + BitVec.ofNat 16 c = r at hr
  have hbits : (~~~ (a ^^^ v) &&& (a ^^^ r)).getLsbD 15 = (a.msb == v.msb && a.msb != r.msb) := by
    simp only [BitVec.getLsbD_and, BitVec.getLsbD_not, BitVec.getLsbD_xor, BitVec.msb_eq_getLsbD_last]
    cases a.getLsbD 15 <;> cases v.getLsbD 15 <;> cases r.getLsbD 15 <;> rfl
  rw [hbits, outside16, toInt_eq, toInt_eq, BitVec.msb_eq_decide, BitVec.msb_eq_decide, BitVec.msb_eq_decide, Bool.eq_iff_iff]
  simp only [decide_eq_true_eq, Bool.and_eq_true, beq_iff_eq, bne_iff_ne, ne_eq, decide_eq_decide, Nat.reduceSub, Nat.reducePow]
  split <;> split <;> omega

/-- Result and flags of a sum with carry, as R164 and R166 give them. -/
theorem sumFlags_eq (a v : Word) {c : Nat} (hc : c ≤ 1) (f : Flags) :
    sumFlags (a.toNat + v.toNat + c) (a.toInt + v.toInt + c) f = (a + v + BitVec.ofNat 16 c,
      { N := (a + v + BitVec.ofNat 16 c).getLsbD 15, Z := decide (a + v + BitVec.ofNat 16 c = 0),
        C := decide (65535 < a.toNat + v.toNat + c),
        V := (~~~ (a ^^^ v) &&& (a ^^^ (a + v + BitVec.ofNat 16 c))).getLsbD 15 }) := by
  have hr : BitVec.ofNat 16 (a.toNat + v.toNat + c) = a + v + BitVec.ofNat 16 c := by
    apply BitVec.eq_of_toNat_eq
    rw [toNat_add_carry a v c, BitVec.toNat_ofNat]
  rw [sumFlags, hr, overflow_add a v hc, Flags.nz_eq, decide_toNat_eq_zero]
  rfl

theorem addRule_eq (a v : Word) (f : Flags) : addRule a v f = (a + v,
    { N := (a + v).getLsbD 15, Z := decide (a + v = 0), C := decide (65535 < a.toNat + v.toNat),
      V := (~~~ (a ^^^ v) &&& (a ^^^ (a + v))).getLsbD 15 }) := by
  simpa [addRule] using sumFlags_eq a v (Nat.zero_le 1) f

/-- Settles O9: both rules are the sum with a carry, which is 0 for ADD. -/
theorem addAdcResultAndFlags : Obligations.AddAdcResultAndFlags := by
  intro rd m s t v hv a c flags
  have hc : s.fl.C.toNat = c := by cases h : s.fl.C <;> simp [c, h]
  have hle : c ≤ 1 := hc ▸ Bool.toNat_le _
  refine ⟨aluOp_completes rfl hv (addRule_eq a v s.fl), aluOp_completes rfl hv ?_⟩
  rw [adcRule, hc]
  exact sumFlags_eq a v hle s.fl

-- Differences (R165, R167): sums with the complement, with carry 1 where there is no incoming borrow.

theorem toNat_complement (v : Word) : (~~~ v).toNat = 65535 - v.toNat := by
  rw [BitVec.toNat_not]

theorem toInt_complement (v : Word) : (~~~ v).toInt = - v.toInt - 1 := by
  have hv := v.isLt
  rw [toInt_eq, toInt_eq, toNat_complement]
  split <;> split <;> omega

theorem sub_eq_add_complement (a v : Word) : a - v = a + ~~~ v + BitVec.ofNat 16 1 := by
  have hv := v.isLt
  apply BitVec.eq_of_toNat_eq
  rw [toNat_add_carry, toNat_complement, BitVec.toNat_sub]
  omega

theorem sub_sub_one_eq_add_complement (a v : Word) : a - v - BitVec.ofNat 16 1 = a + ~~~ v := by
  rw [sub_eq_add_complement a v, BitVec.add_sub_cancel]

/-- Result and flags of a difference less a borrow `1 - c`, as R165 and R167 give them. -/
theorem subFlags_eq (a v r : Word) {c : Nat} (hc : c ≤ 1) (hr : r = a + ~~~ v + BitVec.ofNat 16 c) (f : Flags) :
    sumFlags (a.toNat + (v ^^^ 0xFFFF).toNat + c) (a.toInt - v.toInt - (1 - c)) f = (r,
      { N := r.getLsbD 15, Z := decide (r = 0), C := decide (v.toNat + (1 - c) ≤ a.toNat),
        V := ((a ^^^ v) &&& (a ^^^ r)).getLsbD 15 }) := by
  have hx : v ^^^ 0xFFFF = ~~~ v := BitVec.xor_allOnes
  have hint : a.toInt - v.toInt - (1 - c) = a.toInt + (~~~ v).toInt + c := by
    rw [toInt_complement]
    omega
  have hcarry : decide (65535 < a.toNat + (~~~ v).toNat + c) = decide (v.toNat + (1 - c) ≤ a.toNat) := by
    have hv := v.isLt
    rw [toNat_complement]
    exact decide_eq_decide.2 (by omega)
  have hxor : ~~~ (a ^^^ ~~~ v) = a ^^^ v := by
    ext i
    simp
  rw [hx, hint, sumFlags_eq a (~~~ v) hc f, hcarry, hxor, hr]

theorem subRule_eq (a v : Word) (f : Flags) : subRule a v f = (a - v,
    { N := (a - v).getLsbD 15, Z := decide (a - v = 0), C := decide (v.toNat ≤ a.toNat),
      V := ((a ^^^ v) &&& (a ^^^ (a - v))).getLsbD 15 }) := by
  simpa [subRule] using subFlags_eq a v (a - v) (le_refl 1) (sub_eq_add_complement a v) f

theorem negRule_eq (a v : Word) (f : Flags) : negRule a v f = (- v,
    { N := (- v).getLsbD 15, Z := decide (v = 0), C := f.C, V := decide (v = 0x8000) }) := by
  have hz : decide (- v = 0) = decide (v = 0) := decide_eq_decide.2 neg_eq_zero
  rw [negRule, zero_sub, Flags.nz_eq, decide_toNat_eq_zero, hz]
  rfl

/-- Settles O10: SUB and SBC are sums with the complement; NEG by its own rule. -/
theorem subSbcNegResultAndFlags : Obligations.SubSbcNegResultAndFlags := by
  intro rd m s t v hv a b flags
  refine ⟨aluOp_completes rfl hv (subRule_eq a v s.fl), aluOp_completes rfl hv ?_, aluOp_completes rfl hv (negRule_eq a v s.fl)⟩
  have hb : b = 1 - s.fl.C.toNat := by cases h : s.fl.C <;> simp [b, h]
  have hr : a - v - BitVec.ofNat 16 b = a + ~~~ v + BitVec.ofNat 16 s.fl.C.toNat := by
    rw [hb]
    cases s.fl.C
    · simpa using sub_sub_one_eq_add_complement a v
    · simpa using sub_eq_add_complement a v
  have hsub := subFlags_eq a v _ (Bool.toNat_le s.fl.C) hr s.fl
  rw [← hb] at hsub
  exact hsub

-- Comparisons (R178).

/-- Settles O11: the flags of CMP are the comparisons themselves. -/
theorem compareForBranches : Obligations.CompareForBranches := by
  intro rd m s t v hv
  obtain ⟨hb, hu⟩ := readOperand_frame hv
  have hx : exec (.cmp rd m) s = .next (next (operandLength m) s (t.setFl (cmpFlags (s.reg rd) v s.fl))) := by
    change finish s ((readOperand m s).bind _) = _
    rw [hv]
    rfl
  have hnat : s.reg rd = v ↔ (s.reg rd).toNat = v.toNat := BitVec.toNat_inj.symm
  have hint : s.reg rd = v ↔ (s.reg rd).toInt = v.toInt := BitVec.toInt_inj.symm
  refine ⟨_, hx, next_pc m s _, rfl, decide_eq_true_iff, decide_eq_true_iff, decide_eq_true_iff, ?_, ?_, hb,
    (hu.setFl _).setPc _⟩
  · change (decide _ && !decide _) = true ↔ _
    simp only [Bool.and_eq_true, Bool.not_eq_true', decide_eq_true_eq, decide_eq_false_iff_not, hnat]
    omega
  · change (decide _ && !decide _) = true ↔ _
    simp only [Bool.and_eq_true, Bool.not_eq_true', decide_eq_true_eq, decide_eq_false_iff_not, hint]
    omega

-- Products (R168, R170).

theorem high_ne_zero_iff (p : BitVec 32) : (p.extractLsb' 16 16 != 0) = decide (65536 ≤ p.toNat) := by
  have hp := p.isLt
  rw [Bool.eq_iff_iff, bne_iff_ne, ne_eq, ← BitVec.toNat_inj, BitVec.extractLsb'_toNat, Nat.shiftRight_eq_div_pow,
    decide_eq_true_eq]
  change ¬ p.toNat / 2 ^ 16 % 2 ^ 16 = 0 ↔ _
  omega

theorem mulRule_eq (a v : Word) (f : Flags) : mulRule a v f = (a.setWidth 32 * v.setWidth 32,
    { N := false, Z := decide (a.setWidth 32 * v.setWidth 32 = 0),
      C := decide (65536 ≤ (a.setWidth 32 * v.setWidth 32).toNat), V := f.V }) := by
  have hp : BitVec.ofNat 32 (a.toNat * v.toNat) = a.setWidth 32 * v.setWidth 32 := by
    apply BitVec.eq_of_toNat_eq
    simp
  rw [mulRule, hp, high_ne_zero_iff]
  rfl

theorem mliRule_eq (a v : Word) (f : Flags) : mliRule a v f = (a.signExtend 32 * v.signExtend 32,
    { N := (a.signExtend 32 * v.signExtend 32).getLsbD 31, Z := decide (a.signExtend 32 * v.signExtend 32 = 0),
      C := decide (65536 ≤ (a.signExtend 32 * v.signExtend 32).toNat), V := f.V }) := by
  have hp : BitVec.ofInt 32 (a.toInt * v.toInt) = a.signExtend 32 * v.signExtend 32 := BitVec.ofInt_mul ..
  rw [mliRule, hp, high_ne_zero_iff, BitVec.msb_eq_getLsbD_last]
  rfl

/-- Settles O12: the product by its rule, then the writes of R0 and of Rx in this order. -/
theorem multiplyGivesProduct : Obligations.MultiplyGivesProduct := by
  intro rd m s t v hv completes
  obtain ⟨hb, hu⟩ := readOperand_frame hv
  have key {i : Instr} {rule : Word → Word → Flags → BitVec 32 × Flags} (hx : exec i s = mulOp rule rd m s) {p : BitVec 32}
      {n : Bool} (hr : rule (s.reg rd) v s.fl =
        (p, { N := n, Z := decide (p = 0), C := decide (65536 ≤ p.toNat), V := s.fl.V })) : completes i p n := by
    have hstate : exec i s = .next (next (operandLength m) s
        (((t.setReg 0 (p.extractLsb' 16 16)).setReg rd (p.extractLsb' 0 16)).setFl
          { N := n, Z := decide (p = 0), C := decide (65536 ≤ p.toNat), V := s.fl.V })) := by
      rw [hx, mulOp, hv, Res.bind_ok, hr, finish_ok]
    refine ⟨_, hstate, setReg_reg_self .., fun h0 => ?_, rfl, next_pc m s _, fun k hk hne hne0 => ?_, ?_⟩
    · exact (setReg_reg_of_ne _ _ (Ne.symm h0)).trans (setReg_reg_self ..)
    · exact ((setReg_reg_of_ne _ _ hne).trans (setReg_reg_of_ne t _ hne0)).trans (hb k hk)
    · exact (((hu.setReg 0 _).setReg rd _).setFl _).setPc _
  exact ⟨key rfl (mulRule_eq _ v s.fl), key rfl (mliRule_eq _ v s.fl)⟩

-- Divisions (R169, R171 to R173).

theorem divOp_completes {i : Instr} {m : Operand} {s t : State} {v r : Word} {rd : Reg} {f : Flags}
    {rule : Word → Word → Flags → Word × Flags} (hx : exec i s = divOp rule rd m s) (h : readOperand m s = .ok v t)
    (hv : v ≠ 0) (hr : rule (s.reg rd) v s.fl = (r, f)) : CompletesAlu i m 2 s rd r f := by
  obtain ⟨hb, hu⟩ := readOperand_frame h
  rw [divOp, h, Res.bind_ok, if_neg hv, hr, finish_ok] at hx
  exact completesAlu_of_exec hx hb hu

theorem divRule_eq (a v : Word) (f : Flags) (hv : v ≠ 0) :
    divRule a v f = (a / v, { N := false, Z := decide (a.toNat < v.toNat), C := f.C, V := f.V }) := by
  have hq : BitVec.ofNat 16 (a.toNat / v.toNat) = a / v := BitVec.eq_of_toNat_eq (by
    rw [BitVec.toNat_udiv, BitVec.toNat_ofNat]
    exact Nat.mod_eq_of_lt (Nat.lt_of_le_of_lt (Nat.div_le_self ..) a.isLt))
  have hpos : 0 < v.toNat := Nat.pos_of_ne_zero fun h => hv (BitVec.eq_of_toNat_eq h)
  have hz : ((a / v : Word) == 0) = decide (a.toNat < v.toNat) := by
    rw [Bool.eq_iff_iff, beq_iff_eq, decide_eq_true_eq, ← BitVec.toNat_inj, BitVec.toNat_udiv]
    exact Nat.div_eq_zero_iff_lt hpos
  rw [divRule, hq, hz]

theorem modRule_eq (a v : Word) (f : Flags) :
    modRule a v f = (a % v, { N := (a % v).getLsbD 15, Z := decide (a % v = 0), C := f.C, V := f.V }) := by
  have hq : BitVec.ofNat 16 (a.toNat % v.toNat) = a % v := BitVec.eq_of_toNat_eq (by
    rw [BitVec.toNat_umod, BitVec.toNat_ofNat]
    exact Nat.mod_eq_of_lt (Nat.lt_of_le_of_lt (Nat.mod_le ..) a.isLt))
  rw [modRule, hq, Flags.nz_eq, decide_toNat_eq_zero]

theorem dviRule_eq (a v : Word) (f : Flags) : dviRule a v f = (a.sdiv v,
    { N := (a.sdiv v).getLsbD 15, Z := decide (a.sdiv v = 0), C := f.C, V := decide (a = 0x8000 ∧ v = 0xFFFF) }) := by
  have hq : BitVec.ofInt 16 (a.toInt.tdiv v.toInt) = a.sdiv v :=
    BitVec.eq_of_toInt_eq (by rw [BitVec.toInt_sdiv, BitVec.toInt_ofInt])
  rw [dviRule, hq, Flags.nz_eq, decide_toNat_eq_zero, Bool.decide_and]
  rfl

theorem mdiRule_eq (a v : Word) (f : Flags) : mdiRule a v f = (a.srem v,
    { N := (a.srem v).getLsbD 15, Z := decide (a.srem v = 0), C := f.C, V := f.V }) := by
  have hq : BitVec.ofInt 16 (a.toInt - v.toInt * a.toInt.tdiv v.toInt) = a.srem v := by
    rw [← Int.tmod_def, ← BitVec.toInt_srem, BitVec.ofInt_toInt]
  rw [mdiRule, hq, Flags.nz_eq, decide_toNat_eq_zero]

/-- Settles O13: the four rules as the quotient and the remainder of words. -/
theorem divideGivesQuotientAndRemainder : Obligations.DivideGivesQuotientAndRemainder := by
  intro rd m s t v hv hne a
  exact ⟨divOp_completes rfl hv hne (divRule_eq a v s.fl hne), divOp_completes rfl hv hne (modRule_eq a v s.fl),
    divOp_completes rfl hv hne (dviRule_eq a v s.fl), divOp_completes rfl hv hne (mdiRule_eq a v s.fl)⟩

/-- Settles O14: the four instructions run one frame, which raises after the operand is read. -/
theorem divideByZeroIsTaken : Obligations.DivideByZeroIsTaken := by
  intro rd m s t h
  have key {i : Instr} (hx : ∃ rule, exec i s = divOp rule rd m s) : Takes i s .divideByZero (addrOf s) t := by
    obtain ⟨rule, hx⟩ := hx
    rw [divOp, h, Res.bind_ok, if_pos rfl] at hx
    exact takes_of_finish hx Cause.noConfusion
  obtain ⟨hb, hu⟩ := readOperand_frame h
  refine ⟨fun i hi => key ?_, (readOperand_fl_pc h).1, hb, hu⟩
  fin_cases hi <;> exact ⟨_, rfl⟩

end Sys2Proof.Machine
end

section
/-! PROOFS. The two-byte instructions on one register: shifts and rotates (spec/41_shift.md), bit tests (spec/42_bittest.md),
immediates (spec/45_immediate.md), SWO (spec/49_processor.md R346). -/

namespace Sys2Proof

-- The fields of their words.

theorem countOf_eq (w : Word) : countOf w = if w.getLsbD 12 then .reg ⟨w.toNat / 256 % 8, by omega⟩
    else .imm (BitVec.ofNat 4 (w.toNat / 256 % 16)) := by
  have hr : toReg (w.extractLsb' 8 3) = ⟨w.toNat / 256 % 8, by omega⟩ :=
    Fin.ext (by simp only [toReg, BitVec.extractLsb'_toNat, Nat.shiftRight_eq_div_pow, Nat.reducePow])
  have hk : w.extractLsb' 8 4 = BitVec.ofNat 4 (w.toNat / 256 % 16) := BitVec.eq_of_toNat_eq (by
    simp [BitVec.extractLsb'_toNat, Nat.shiftRight_eq_div_pow])
  rw [countOf, hr, hk]

theorem middleFive_eq (w : Word) : w.extractLsb' 8 5 = BitVec.ofNat 5 (w.toNat / 256) := BitVec.eq_of_toNat_eq (by
  simp [BitVec.extractLsb'_toNat, Nat.shiftRight_eq_div_pow])

theorem lowNibble_toNat (w : Word) : (lowNibble w).toNat = w.toNat % 16 := by
  simp [lowNibble]

theorem toNat_wordOf (lo hi : Byte) : (wordOf lo hi).toNat = hi.toNat * 256 + lo.toNat := toNat_append_eq_add hi lo

theorem toNat_loByte (w : Word) : (loByte w).toNat = w.toNat % 256 := lowOctet_toNat w

theorem toNat_hiByte (w : Word) : (hiByte w).toNat = w.toNat / 256 := by
  have hw := w.isLt
  simp only [hiByte, BitVec.extractLsb'_toNat, Nat.shiftRight_eq_div_pow]
  omega

end Sys2Proof

namespace Sys2Proof.Machine

/-- An instruction completes that ends by writing `rd`, the flags and PC. -/
theorem completesReg_of_exec {i : Instr} {s : State} {rd : Reg} {r : Word} {f : Flags}
    (hx : exec i s = .next (next 2 s ((s.setReg rd r).setFl f))) : CompletesReg i s rd r f :=
  ⟨_, hx, setReg_reg_self .., rfl, rfl, rfl,
    (((((OnlyBus.refl s).unchanged fun _ => True).setReg rd r).setFl f).setPc _).mono fun _ h => ⟨h, trivial⟩⟩

-- Shift counts (R115, R129).

theorem countValue_eq (c : Count) (s : State) : countValue c s = match c with
    | .imm k => k.toNat
    | .reg r => (s.reg r).toNat % 16 := by
  cases c with
  | imm k => rfl
  | reg r => exact lowNibble_toNat _

theorem countValue_lt (c : Count) (s : State) : countValue c s < 16 := by
  cases c with
  | imm k => exact k.isLt
  | reg r => exact (lowNibble _).isLt

theorem shiftOp_completes {i : Instr} {c : Count} {s : State} {r : Word} {rd : Reg} {f : Flags}
    {rule : Word → Nat → Flags → Word × Flags} (hx : exec i s = shiftOp rule rd c s)
    (hr : rule (s.reg rd) (countValue c s) s.fl = (r, f)) : CompletesReg i s rd r f := by
  rw [shiftOp, hr] at hx
  exact completesReg_of_exec hx

-- Shifts (R201 to R204).

/-- A bit is shifted out at the top where the unbounded product does not fit. -/
theorem shiftedOut_iff (v : Word) {n : Nat} (hn : n < 16) :
    2 ^ 16 ≤ v.toNat * 2 ^ n ↔ ∃ j < 16, 16 ≤ j + n ∧ v.getLsbD j = true := by
  have hpow : 2 ^ 16 = 2 ^ (16 - n) * 2 ^ n := by rw [← Nat.pow_add, Nat.sub_add_cancel (Nat.le_of_lt hn)]
  rw [hpow, Nat.mul_le_mul_right_iff (Nat.two_pow_pos n)]
  refine ⟨fun h => ?_, fun ⟨j, _, hj, hb⟩ => ?_⟩
  · obtain ⟨j, hj, hb⟩ := Nat.exists_ge_and_testBit_of_ge_two_pow h
    exact ⟨j, BitVec.lt_of_getLsbD (x := v) hb, by omega, hb⟩
  · exact Nat.le_trans (Nat.pow_le_pow_right (by decide) (by omega)) (Nat.ge_two_pow_of_testBit hb)

theorem rightCarry_iff (v : Word) (n : Nat) : rightCarry v n = true ↔ ∃ j < n, v.getLsbD j = true := by
  rw [rightCarry, decide_eq_true_eq]
  refine ⟨fun h => ?_, fun ⟨j, hj, hb⟩ h0 => ?_⟩
  · obtain ⟨j, hb⟩ := Nat.exists_testBit_of_ne_zero h
    rw [Nat.testBit_mod_two_pow, Bool.and_eq_true, decide_eq_true_eq] at hb
    exact ⟨j, hb⟩
  · have hbit : (v.toNat % 2 ^ n).testBit j = true := by
      rw [Nat.testBit_mod_two_pow, decide_eq_true hj, Bool.true_and]
      exact hb
    rw [h0, Nat.zero_testBit] at hbit
    cases hbit

theorem aslRule_eq (v : Word) {n : Nat} (hn : n < 16) (f : Flags) {out : Bool}
    (hout : out = true ↔ ∃ j < 16, 16 ≤ j + n ∧ v.getLsbD j = true) : aslRule v n f = (v <<< n,
      { N := (v <<< n).getLsbD 15, Z := decide (v <<< n = 0), C := out, V := f.V }) := by
  have hv : BitVec.ofNat 16 (v.toNat * 2 ^ n) = v <<< n := BitVec.eq_of_toNat_eq (by
    rw [BitVec.toNat_shiftLeft, Nat.shiftLeft_eq, BitVec.toNat_ofNat])
  have hc : decide (2 ^ 16 ≤ v.toNat * 2 ^ n) = out := by
    rw [Bool.eq_iff_iff, decide_eq_true_eq, hout, shiftedOut_iff v hn]
  rw [aslRule, hv, hc, Flags.nz_eq, decide_toNat_eq_zero]

theorem lsrRule_eq (v : Word) (n : Nat) (f : Flags) {out : Bool} (hout : out = true ↔ ∃ j < n, v.getLsbD j = true) :
    lsrRule v n f = (v >>> n, { N := (v >>> n).getLsbD 15, Z := decide (v >>> n = 0), C := out, V := f.V }) := by
  have hv : BitVec.ofNat 16 (v.toNat / 2 ^ n) = v >>> n := BitVec.eq_of_toNat_eq (by
    rw [BitVec.toNat_ushiftRight, Nat.shiftRight_eq_div_pow, BitVec.toNat_ofNat]
    exact Nat.mod_eq_of_lt (Nat.lt_of_le_of_lt (Nat.div_le_self ..) v.isLt))
  have hc : rightCarry v n = out := by rw [Bool.eq_iff_iff, rightCarry_iff, hout]
  rw [lsrRule, hv, hc, Flags.nz_eq, decide_toNat_eq_zero]

theorem asrRule_eq (v : Word) (n : Nat) (f : Flags) {out : Bool} (hout : out = true ↔ ∃ j < n, v.getLsbD j = true) :
    asrRule v n f = (v.sshiftRight n,
      { N := (v.sshiftRight n).getLsbD 15, Z := decide (v.sshiftRight n = 0), C := out,
        V := decide (v ≠ 0xFFFF ∧ v.sshiftRight n = 0xFFFF) }) := by
  have hv : BitVec.ofInt 16 (v.toInt / 2 ^ n) = v.sshiftRight n := by
    rw [BitVec.sshiftRight, Int.shiftRight_eq_div_pow, Nat.cast_pow, Nat.cast_ofNat]
  have hc : rightCarry v n = out := by rw [Bool.eq_iff_iff, rightCarry_iff, hout]
  have ho : (v != 0xFFFF && v.sshiftRight n == 0xFFFF) = decide (v ≠ 0xFFFF ∧ v.sshiftRight n = 0xFFFF) := by
    rw [Bool.eq_iff_iff, Bool.and_eq_true, bne_iff_ne, beq_iff_eq, decide_eq_true_eq]
  rw [asrRule, hv, hc, ho, Flags.nz_eq, decide_toNat_eq_zero]

/-- Settles O18: each rule as a shift of words, with the carry by its bits. -/
theorem shiftsResultAndFlags : Obligations.ShiftsResultAndFlags := by
  intro rd c s n v flags
  have hn : countValue c s = n := countValue_eq c s
  have hlt : countValue c s < 16 := countValue_lt c s
  rw [hn] at hlt
  refine ⟨fun out hout => ?left, fun out hout => ?right⟩
  case left =>
    have hr : aslRule (s.reg rd) (countValue c s) s.fl = (v <<< n, flags (v <<< n) out s.fl.V) := by
      rw [hn]
      exact aslRule_eq v hlt s.fl hout
    exact ⟨shiftOp_completes rfl hr, shiftOp_completes rfl hr⟩
  case right =>
    refine ⟨shiftOp_completes (rule := lsrRule) rfl ?_, shiftOp_completes (rule := asrRule) rfl ?_⟩
    · rw [hn]
      exact lsrRule_eq v n s.fl hout
    · rw [hn]
      exact asrRule_eq v n s.fl hout

-- Rotates (R205 to R208): the bits that go round, as a sum.

theorem toNat_rotateLeft_eq_add {w : Nat} (x : BitVec w) {n : Nat} (hn : n < w) :
    (x.rotateLeft n).toNat = x.toNat * 2 ^ n % 2 ^ w + x.toNat / 2 ^ (w - n) := by
  have hw : 2 ^ w = 2 ^ n * 2 ^ (w - n) := by rw [← Nat.pow_add, Nat.add_sub_cancel' (Nat.le_of_lt hn)]
  have hhigh : x.toNat * 2 ^ n % 2 ^ w = 2 ^ n * (x.toNat % 2 ^ (w - n)) := by
    rw [hw, Nat.mul_comm x.toNat, Nat.mul_mod_mul_left]
  have hlow : x.toNat / 2 ^ (w - n) < 2 ^ n := by
    rw [Nat.div_lt_iff_lt_mul (Nat.two_pow_pos _), ← hw]
    exact x.isLt
  rw [BitVec.toNat_rotateLeft, Nat.mod_eq_of_lt hn, Nat.shiftLeft_eq, Nat.shiftRight_eq_div_pow, hhigh,
    Nat.two_pow_add_eq_or_of_lt hlow]

theorem toNat_rotateRight_eq_add {w : Nat} (x : BitVec w) {n : Nat} (hn : n < w) :
    (x.rotateRight n).toNat = x.toNat / 2 ^ n + x.toNat * 2 ^ (w - n) % 2 ^ w := by
  have hw : 2 ^ w = 2 ^ (w - n) * 2 ^ n := by rw [← Nat.pow_add, Nat.sub_add_cancel (Nat.le_of_lt hn)]
  have hhigh : x.toNat * 2 ^ (w - n) % 2 ^ w = 2 ^ (w - n) * (x.toNat % 2 ^ n) := by
    rw [hw, Nat.mul_comm x.toNat, Nat.mul_mod_mul_left]
  have hlow : x.toNat / 2 ^ n < 2 ^ (w - n) := by
    rw [Nat.div_lt_iff_lt_mul (Nat.two_pow_pos _), ← hw]
    exact x.isLt
  rw [BitVec.toNat_rotateRight, Nat.mod_eq_of_lt hn, Nat.shiftLeft_eq, Nat.shiftRight_eq_div_pow, hhigh, Nat.or_comm,
    ← Nat.two_pow_add_eq_or_of_lt hlow, Nat.add_comm]

theorem rotateLeft_zero {w : Nat} (x : BitVec w) : x.rotateLeft 0 = x := by
  ext i hi
  simp [BitVec.getElem_rotateLeft]

theorem rotateRight_zero {w : Nat} (x : BitVec w) : x.rotateRight 0 = x := by
  ext i hi
  simp [BitVec.getElem_rotateRight, hi]

theorem rnlRule_eq (v : Word) {n : Nat} (hn : n < 16) (f : Flags) : rnlRule v n f = (v.rotateLeft n,
    { N := (v.rotateLeft n).getLsbD 15, Z := decide (v.rotateLeft n = 0), C := f.C, V := f.V }) := by
  rw [rnlRule, ← toNat_rotateLeft_eq_add v hn, BitVec.ofNat_toNat, BitVec.setWidth_eq, Flags.nz_eq, decide_toNat_eq_zero]

theorem rnrRule_eq (v : Word) {n : Nat} (hn : n < 16) (f : Flags) : rnrRule v n f = (v.rotateRight n,
    { N := (v.rotateRight n).getLsbD 15, Z := decide (v.rotateRight n = 0), C := f.C, V := f.V }) := by
  rw [rnrRule, ← toNat_rotateRight_eq_add v hn, BitVec.ofNat_toNat, BitVec.setWidth_eq, Flags.nz_eq, decide_toNat_eq_zero]

theorem withCarry_eq (v : Word) (c : Bool) : withCarry v c = (BitVec.ofBool c ++ v : BitVec 17).toNat := by
  rw [withCarry, toNat_append_eq_add, BitVec.toNat_ofBool]

/-- Result and flags of a rotate through carry, from the 17 bits it leaves. -/
theorem carryRotated_eq {x y : BitVec 17} {n : Nat} {f : Flags} (hx : x.getLsbD 16 = f.C) (h0 : n = 0 → y = x) :
    carryRotated y.toNat n f = (y.extractLsb' 0 16,
      { N := (y.extractLsb' 0 16).getLsbD 15, Z := decide (y.extractLsb' 0 16 = 0), C := y.getLsbD 16, V := f.V }) := by
  have hc : (if n = 0 then f.C else y.toNat.testBit 16) = y.getLsbD 16 := by
    split
    · next h => rw [h0 h, hx]
    · rfl
  have hr : BitVec.ofNat 16 y.toNat = y.extractLsb' 0 16 := rfl
  rw [carryRotated, hr, hc, Flags.nz_eq, decide_toNat_eq_zero]

/-- Settles O19: each rule as a rotate of words, of 17 bits where it goes through C. -/
theorem rotatesResultAndFlags : Obligations.RotatesResultAndFlags := by
  intro rd c s n v flags wide
  have hn : countValue c s = n := countValue_eq c s
  have hlt : countValue c s < 16 := countValue_lt c s
  rw [hn] at hlt
  have hwide : wide.getLsbD 16 = s.fl.C := by
    change (BitVec.ofBool s.fl.C ++ v).getLsbD 16 = s.fl.C
    rw [BitVec.getLsbD_append]
    simp
  refine ⟨shiftOp_completes (rule := rnlRule) rfl ?_, shiftOp_completes (rule := rnrRule) rfl ?_,
    shiftOp_completes (rule := rolRule) rfl ?_, shiftOp_completes (rule := rorRule) rfl ?_⟩
  all_goals rw [hn]
  · exact rnlRule_eq v hlt s.fl
  · exact rnrRule_eq v hlt s.fl
  · rw [rolRule, withCarry_eq]
    refine (congrArg (carryRotated · n s.fl) (toNat_rotateLeft_eq_add wide (by omega)).symm).trans ?_
    exact carryRotated_eq hwide fun h => by rw [h]; exact rotateLeft_zero wide
  · rw [rorRule, withCarry_eq]
    refine (congrArg (carryRotated · n s.fl) (toNat_rotateRight_eq_add wide (by omega)).symm).trans ?_
    exact carryRotated_eq hwide fun h => by rw [h]; exact rotateRight_zero wide

-- Bit tests (R220 to R224).

theorem withBit_getLsbD (v : Word) (b : Nat) (x : Bool) {j : Nat} (hj : j < 16) :
    (withBit v b x).getLsbD j = if j = b then x else v.getLsbD j := by
  unfold withBit
  by_cases h : j = b
  · subst h
    cases x <;> simp [hj]
  · cases x <;> simp [hj, h]

theorem eq_withBit {v r : Word} {b : Nat} {x : Bool} (h : ∀ j < 16, r.getLsbD j = if j = b then x else v.getLsbD j) :
    withBit v b x = r :=
  BitVec.eq_of_getLsbD_eq fun j hj => by rw [withBit_getLsbD v b x hj, h j hj]

theorem bitOp_completes {i : Instr} {c : Count} {s : State} {r : Word} {rd : Reg} {f : Flags}
    {rule : Word → Nat → Flags → Word × Flags} (hx : exec i s = bitOp rule rd c s)
    (hr : rule (s.reg rd) (countValue c s) s.fl = (r, f)) : CompletesReg i s rd r f := by
  rw [bitOp, hr] at hx
  exact completesReg_of_exec hx

/-- Settles O20: each word decodes to its row, and the row's rule changes the one bit. -/
theorem bitTestsResultAndFlags : Obligations.BitTestsResultAndFlags := by
  intro w nw s rd ry b c old completes
  have hrd : fieldHi w = rd := fieldHi_eq w rd.isLt
  have hc : countOf w = c := countOf_eq w
  have hb : countValue c s = b := by
    rw [countValue_eq]
    by_cases h : w.getLsbD 12 = true
    · simp only [c, b, h, if_true]
    · simp only [c, b, h]
      exact Nat.mod_mod _ 16
  have hold : (!(s.reg rd).getLsbD b) = decide (old = false) := by cases h : (s.reg rd).getLsbD b <;> simp [old, h]
  have row {i : Instr} (hlo : 0x90 ≤ w.toNat % 256) (hhi : w.toNat % 256 < 0xD0) (h : decodeOther w nw = i) :
      decodeWords w nw = i := (decodeWords_eq_decodeOther nw hlo hhi).trans h
  refine ⟨fun h => ⟨row (by omega) (by omega) ?_, fun r hr => bitOp_completes (rule := bitRule) rfl ?_⟩,
    fun h => ⟨row (by omega) (by omega) ?_, fun r hr => bitOp_completes (rule := btxRule) rfl ?_⟩,
    fun h => ⟨row (by omega) (by omega) ?_, fun r hr => bitOp_completes (rule := btcRule) rfl ?_⟩,
    fun h => ⟨row (by omega) (by omega) ?_, fun r hr => bitOp_completes (rule := btsRule) rfl ?_⟩⟩
  · simp only [decodeOther, lowOctet_toNat, h, hrd, hc]
  · have hkeep : s.reg rd = r := BitVec.eq_of_getLsbD_eq fun j hj => by
      rw [hr j hj]
      split
      · next e => rw [e]
      · rfl
    rw [hb, bitRule, hold, hkeep]
  · simp only [decodeOther, lowOctet_toNat, h, hrd, hc]
  · rw [hb, btxRule, eq_withBit hr, ← hold]
  · simp only [decodeOther, lowOctet_toNat, h, hrd, hc]
  · rw [hb, btcRule, eq_withBit hr, hold]
    exact congrArg (Prod.mk r) (by cases h : old <;> simp [old] at h <;> simp [h])
  · simp only [decodeOther, lowOctet_toNat, h, hrd, hc]
  · rw [hb, btsRule, eq_withBit hr, hold]
    exact congrArg (Prod.mk r) (by cases h : old <;> simp [old] at h <;> simp [h])

end Sys2Proof.Machine
end

section
/-! PROOFS. The immediates (spec/45_immediate.md R261 to R264), SWO (spec/49_processor.md R346), and the reads and writes of one
word of the MMU cache or of one special register (R335, R336, R340). -/

namespace Sys2Proof.Machine

-- ADI, SBI, INC, DEC.

theorem overflow_add_small {a : Word} {M : Nat} (hM : M ≤ 32) :
    (~~~ (a ^^^ BitVec.ofNat 16 M) &&& (a ^^^ (a + BitVec.ofNat 16 M))).getLsbD 15 = decide (a.toInt + M > 32767) := by
  have hv : (BitVec.ofNat 16 M).toInt = M := by
    rw [toInt_eq, BitVec.toNat_ofNat, Nat.mod_eq_of_lt (by omega), if_neg (by omega)]
  have ha := a.le_toInt
  have h := overflow_add a (BitVec.ofNat 16 M) (Nat.zero_le 1)
  rw [BitVec.add_zero] at h
  rw [← h, outside16, hv]
  exact decide_eq_decide.2 (by omega)

theorem addRule_small (a : Word) {M : Nat} (hM : M ≤ 32) (f : Flags) :
    addRule a (BitVec.ofNat 16 M) f = (a + BitVec.ofNat 16 M,
      { N := (a + BitVec.ofNat 16 M).getLsbD 15, Z := decide ((a + BitVec.ofNat 16 M).toNat = 0),
        C := decide (65536 ≤ a.toNat + M), V := decide (a.toInt + M > 32767) }) := by
  have hv : (BitVec.ofNat 16 M).toNat = M := Nat.mod_eq_of_lt (by omega)
  rw [addRule_eq, overflow_add_small hM, hv, decide_toNat_eq_zero]
  rfl

theorem overflow_sub (a v : Word) :
    outside16 (a.toInt - v.toInt) = ((a ^^^ v) &&& (a ^^^ (a - v))).getLsbD 15 :=
  congrArg (·.2.V) (subRule_eq a v (flagsOf 0))

theorem subRule_small (a : Word) {M : Nat} (hM : M ≤ 32) (f : Flags) :
    subRule a (BitVec.ofNat 16 M) f = (a - BitVec.ofNat 16 M,
      { N := (a - BitVec.ofNat 16 M).getLsbD 15, Z := decide ((a - BitVec.ofNat 16 M).toNat = 0),
        C := decide (M ≤ a.toNat), V := decide (a.toInt - M < -32768) }) := by
  have hn : (BitVec.ofNat 16 M).toNat = M := Nat.mod_eq_of_lt (by omega)
  have hv : (BitVec.ofNat 16 M).toInt = M := by rw [toInt_eq, hn, if_neg (by omega)]
  have ha := a.toInt_lt
  have ho : outside16 (a.toInt - M) = decide (a.toInt - M < -32768) := decide_eq_decide.2 (by omega)
  rw [subRule_eq, ← overflow_sub, hv, ho, hn, decide_toNat_eq_zero]

theorem immOp_completes {i : Instr} {s : State} {m r : Word} {rd : Reg} {f : Flags}
    {rule : Word → Word → Flags → Word × Flags} (hx : exec i s = immOp rule rd m s)
    (hr : rule (s.reg rd) m s.fl = (r, f)) : CompletesReg i s rd r f := by
  rw [immOp, hr] at hx
  exact completesReg_of_exec hx

theorem immValue_eq (n : Nat) : immValue (BitVec.ofNat 5 n) = BitVec.ofNat 16 (n % 32 + 1) := by
  apply BitVec.eq_of_toNat_eq
  simp only [immValue, BitVec.toNat_add, BitVec.toNat_setWidth, BitVec.toNat_ofNat]
  change (n % 32 % 65536 + 1) % 65536 = _
  omega

/-- Settles O22: each instruction is ADD or SUB with a word from 1 to 32, and each word decodes to its row. -/
theorem immediatesResultAndFlags : Obligations.ImmediatesResultAndFlags := by
  intro w nw s rd v M a completes adds subs
  have hM : M ≤ 32 := by omega
  have hv : immValue v = BitVec.ofNat 16 M := immValue_eq _
  have hadd {i : Instr} (hx : exec i s = immOp addRule rd (BitVec.ofNat 16 M) s) : adds i :=
    immOp_completes hx (addRule_small a hM s.fl)
  have hsub {i : Instr} (hx : exec i s = immOp subRule rd (BitVec.ofNat 16 M) s) : subs i :=
    immOp_completes hx (subRule_small a hM s.fl)
  have hzero : v = 0#5 ↔ M = 1 := by
    rw [← BitVec.toNat_inj]
    change w.toNat / 256 % 32 = 0 ↔ _
    omega
  have hrd : fieldHi w = rd := fieldHi_eq w rd.isLt
  have hfive : w.extractLsb' 8 5 = v := middleFive_eq w
  refine ⟨⟨hadd (hv ▸ rfl), hsub (hv ▸ rfl)⟩, fun h => ⟨hadd ?_, hsub ?_⟩, fun h => ?_, fun h => ?_⟩
  · rw [h]; rfl
  · rw [h]; rfl
  · rw [decodeWords_eq_decodeOther nw (by omega) (by omega)]
    simp only [decodeOther, lowOctet_toNat, h, hrd, hfive, hzero]
  · rw [decodeWords_eq_decodeOther nw (by omega) (by omega)]
    simp only [decodeOther, lowOctet_toNat, h, hrd, hfive, hzero]

-- SWO.

theorem exec_swo (rd rs : Reg) (op : SwoOp) (s : State) :
    CompletesReg (.swo rd rs op) s rd (swoResult op (s.reg rs) (s.reg rd)) s.fl := completesReg_of_exec rfl

/-- Settles O24: the octet moves as numbers. -/
theorem swoMovesOctets : Obligations.SwoMovesOctets := by
  intro rd rs s x d
  have hx : x < 65536 := (s.reg rs).isLt
  have hd : d < 65536 := (s.reg rd).isLt
  have key {op : SwoOp} {n : Nat} (h : (swoResult op (s.reg rs) (s.reg rd)).toNat = n) :
      CompletesReg (.swo rd rs op) s rd (BitVec.ofNat 16 n) s.fl := by
    have hr : BitVec.ofNat 16 n = swoResult op (s.reg rs) (s.reg rd) := by rw [← h, BitVec.ofNat_toNat, BitVec.setWidth_eq]
    rw [hr]
    exact exec_swo rd rs op s
  refine ⟨key ?_, key ?_, key ?_, key ?_⟩ <;> rw [swoResult, toNat_wordOf]
  · rw [toNat_loByte]; exact Nat.zero_add _
  · rw [toNat_hiByte]; exact Nat.zero_add _
  · rw [toNat_loByte, toNat_hiByte]
  · rw [toNat_loByte, toNat_loByte]

-- MMR and MMW.

theorem mmuIndex_val (w : Word) : (mmuIndex w).val = w.toNat % 32 := by
  simp [mmuIndex]

/-- Settles O43. -/
theorem mmrMmwReadWriteCache : Obligations.MmrMmwReadWriteCache := by
  intro rv ra s k hS hk
  have hindex : mmuIndex (s.reg ra) = k := Fin.ext ((mmuIndex_val _).trans hk.symm)
  refine ⟨completesReg_of_exec ?_, s.mmu.set k (s.reg rv), ?_, fun j => ?_⟩
  · change finish s (requirePriv s _) = _
    rw [requirePriv_of_S hS, hindex]
    rfl
  · change finish s (requirePriv s _) = _
    rw [requirePriv_of_S hS, hindex]
    rfl
  · exact setMmu_mmuWord s k j (s.reg rv)

-- TSR.

theorem tsr_refused {rd : Reg} {sr : BitVec 5} {s : State} (hS : s.ps.S = false) (h : tsrAllowed sr = false) :
    Takes (.tsr rd sr) s .unprivOpcode (addrOf s) s := by
  refine takes_of_finish ?_ Cause.noConfusion
  change finish s (if !s.ps.S && !tsrAllowed sr then _ else _) = _
  rw [hS, h]
  rfl

theorem tsr_reads {rd : Reg} {sr : BitVec 5} {s t : State} {v : Word} (h : s.ps.S = true ∨ tsrAllowed sr = true)
    (hr : readSpecial sr s = some (v, t)) : exec (.tsr rd sr) s = .next (next 2 s (t.setReg rd v)) := by
  have hok : (!s.ps.S && !tsrAllowed sr) = false := by rcases h with h | h <;> simp [h]
  change finish s (if !s.ps.S && !tsrAllowed sr then _ else _) = _
  rw [hok, hr]
  rfl

theorem tsrAllowed_iff (sr : BitVec 5) : tsrAllowed sr = true ↔ sr.toNat = 0 ∨ sr.toNat = 1 ∨ sr.toNat = 4 := by
  simp only [tsrAllowed, Bool.or_eq_true, beq_iff_eq, ← BitVec.toNat_inj, or_assoc]
  rfl

/-- The indices $08 to $1F name no register (R342). -/
theorem readSpecial_of_le {sr : BitVec 5} (h : 8 ≤ sr.toNat) (s : State) : readSpecial sr s = none := by
  obtain ⟨k, hk⟩ : ∃ k, sr.toNat = k + 8 := ⟨_, (Nat.sub_add_cancel h).symm⟩
  rw [readSpecial, hk]
  rfl

theorem readPsLow_bus (s : State) : (readPsLow s).2.bus = s.bus := by
  unfold readPsLow
  split <;> rfl

/-- Settles O46: the row of each index. -/
theorem tsrReadsSpecial : Obligations.TsrReadsSpecial := by
  intro rd sr s reads
  have allowed (h : sr.toNat = 0 ∨ sr.toNat = 1 ∨ sr.toNat = 4) : s.ps.S = true ∨ tsrAllowed sr = true :=
    .inr ((tsrAllowed_iff sr).2 h)
  have key {v : Word} (h : s.ps.S = true ∨ tsrAllowed sr = true) (hr : readSpecial sr s = some (v, s)) : reads v :=
    completesReg_of_exec (tsr_reads h hr)
  refine ⟨fun h => key (allowed (.inl h)) ?_, fun h => key (allowed (.inr (.inl h))) ?_,
    fun h => ⟨(readPsLow s).1, readPsLow_of_clean, ?_⟩, fun hS => ⟨fun h => key (.inl hS) ?_, fun h => key (.inl hS) ?_,
      fun h => key (.inl hS) ?_, fun h => key (.inl hS) ?_, fun h => key (.inl hS) ?_, fun h => ?_⟩, fun hS h0 h1 h4 => ?_⟩
  case refine_3 =>
    have hr : readSpecial sr s = some (statusByte s.ps ++ (readPsLow s).1, (readPsLow s).2) := by
      rw [readSpecial, h]
      rfl
    have hf := readPsLow_onlyBus s
    refine ⟨_, tsr_reads (allowed (.inr (.inr h))) hr, setReg_reg_self .., hf.store.fl, rfl, readPsLow_bus s, ?_⟩
    exact (((hf.unchanged fun _ => True).setReg rd _).setPc _).mono fun _ h => ⟨h, trivial⟩
  case refine_9 =>
    change finish s (if !s.ps.S && !tsrAllowed sr then _ else _) = _
    rw [hS, readSpecial_of_le h s]
    rfl
  case refine_10 =>
    refine tsr_refused hS (Bool.eq_false_iff.2 fun h => ?_)
    rcases (tsrAllowed_iff sr).1 h with h | h | h
    · exact h0 h
    · exact h1 h
    · exact h4 h
  all_goals
    rw [readSpecial, h]
    rfl

end Sys2Proof.Machine
end

section
/-! PROOFS. Rows of the opcode map and the step that runs them: the examples of the spec, the undefined encodings
(spec/30_encoding.md R134), the branches (spec/43_branch.md), HWQ $05 to $FF, SWI, the privileged instructions in User mode
(spec/60_exceptions.md R367), and the fetch (spec/20_memory.md R72). -/

namespace Sys2Proof

/-- Settles O55: the decoder is run on the bytes. -/
theorem decodeWordsOfExamples : Obligations.DecodeWordsOfExamples :=
  ⟨rfl, rfl, rfl, rfl, rfl, rfl, rfl, rfl, rfl, rfl, rfl, rfl, rfl, rfl, rfl⟩

-- The rows that are undefined.

theorem decodeOther_of_le {w : Word} (h : 0xE0 ≤ w.toNat % 256) (nw : Word) :
    decodeOther w nw = .undefE0 (w.extractLsb' 0 5) := by
  unfold decodeOther
  dsimp only
  rw [lowOctet_toNat]
  split
  case h_65 => rfl
  all_goals omega

theorem decodeWords_of_le {w : Word} (h : 0xE0 ≤ w.toNat % 256) (nw : Word) : decodeWords w nw = decodeOther w nw := by
  have hop : 28 ≤ w.toNat / 8 % 32 ∧ w.toNat / 8 % 32 < 32 := by omega
  simp only [decodeWords, aluOpcode_toNat]
  generalize w.toNat / 8 % 32 = op at hop ⊢
  obtain ⟨h28, h32⟩ := hop
  interval_cases op <;> rfl

theorem mode_toNat (w : Word) : (w.extractLsb' 0 3).toNat = w.toNat % 8 := by
  rw [BitVec.extractLsb'_toNat, Nat.shiftRight_zero]

theorem aluOperand_imm {w : Word} (nw : Word) (hmode : w.toNat % 8 = 0) (h8 : w.getLsbD 8 = false) :
    aluOperand w nw = .imm nw := by
  simp only [aluOperand, operandOf, mode_toNat, hmode, h8, Bool.false_eq_true, if_false]

theorem aluOperand_reg {w : Word} (nw : Word) (hmode : w.toNat % 8 = 1) : aluOperand w nw = .reg (fieldMid w) := by
  simp only [aluOperand, operandOf, mode_toNat, hmode]

theorem decodeWords_sto {w : Word} (nw : Word) (h : w.toNat / 8 % 32 = 1) :
    decodeWords w nw = storeOf .sto .undefStoImm .undefStoReg w nw := by
  simp only [decodeWords, aluOpcode_toNat, h]

theorem decodeWords_sto8 {w : Word} (nw : Word) (h : w.toNat / 8 % 32 = 27) :
    decodeWords w nw = storeOf .sto8 .undefSto8Imm .undefSto8Reg w nw := by
  simp only [decodeWords, aluOpcode_toNat, h]

end Sys2Proof

namespace Sys2Proof.Machine

/-- The instruction does nothing but take UndefOpcode. -/
def Undefined (i : Instr) : Prop := ∀ s, exec i s = undefined s

theorem Undefined.takes {i : Instr} (h : Undefined i) (s : State) : Takes i s .undefOpcode (addrOf s) s :=
  takes_of_finish (h s) Cause.noConfusion

theorem undefined_storeOf {mk : Reg → Operand → Instr} {ui ur : Instr} {w nw : Word} (hi : Undefined ui) (hr : Undefined ur)
    (h : w.toNat % 8 = 1 ∨ w.toNat % 8 = 0 ∧ w.getLsbD 8 = false) : Undefined (storeOf mk ui ur w nw) := by
  rcases h with h | ⟨h, h8⟩
  · rw [storeOf, aluOperand_reg nw h]
    exact hr
  · rw [storeOf, aluOperand_imm nw h h8]
    exact hi

theorem undefined_octet {w : Word} (nw : Word) (h : w.toNat % 256 ∈ [0xB5, 0xB6, 0xB7, 0xBC, 0xBD, 0xBE, 0xBF, 0xC8, 0xC9, 0xCA,
    0xCB, 0x9A, 0x9B, 0x9C, 0x9D, 0x9E]) : Undefined (decodeOther w nw) := by
  intro s
  simp only [decodeOther, lowOctet_toNat]
  generalize w.toNat % 256 = lo at h
  fin_cases h <;> rfl

theorem undefined_bankMap {w : Word} (nw : Word) (h : w.toNat % 256 = 0xB4) (h9 : w.getLsbD 9 = true) :
    Undefined (decodeOther w nw) := by
  intro s
  have hlt := (w.extractLsb' 8 2).isLt
  have hle : 2 ≤ (w.extractLsb' 8 2).toNat := by
    have hbit : (w.extractLsb' 8 2).toNat.testBit 1 = true := by
      rw [BitVec.testBit_toNat, BitVec.getLsbD_extractLsb', h9]
      rfl
    exact Nat.ge_two_pow_of_testBit hbit
  simp only [decodeOther, lowOctet_toNat, h]
  generalize (w.extractLsb' 8 2).toNat = k at hlt hle
  interval_cases k <;> rfl

/-- Settles O17: each word's row, and each row's meaning. -/
theorem undefinedOpcodesAreTaken : Obligations.UndefinedOpcodesAreTaken := by
  refine ⟨?words, fun s a b c d i hi => Undefined.takes ?row s⟩
  case row => fin_cases hi <;> exact fun _ => rfl
  intro w nw s lo h
  refine Undefined.takes ?_ s
  have other (hlo : 0x90 ≤ lo) (hhi : lo < 0xD0) (h : Undefined (decodeOther w nw)) : Undefined (decodeWords w nw) := by
    rw [decodeWords_eq_decodeOther nw hlo hhi]
    exact h
  have octet (h : lo ∈ [0xB5, 0xB6, 0xB7, 0xBC, 0xBD, 0xBE, 0xBF, 0xC8, 0xC9, 0xCA, 0xCB, 0x9A, 0x9B, 0x9C, 0x9D, 0x9E]) :
      Undefined (decodeWords w nw) := by
    have hrange : ∀ n ∈ [0xB5, 0xB6, 0xB7, 0xBC, 0xBD, 0xBE, 0xBF, 0xC8, 0xC9, 0xCA, 0xCB, 0x9A, 0x9B, 0x9C, 0x9D, 0x9E],
        0x90 ≤ n ∧ n < 0xD0 := by decide
    obtain ⟨hlo, hhi⟩ := hrange lo h
    exact other hlo hhi (undefined_octet nw h)
  have sto (hrow : w.toNat / 8 % 32 = 1) (h : w.toNat % 8 = 1 ∨ w.toNat % 8 = 0 ∧ w.getLsbD 8 = false) :
      Undefined (decodeWords w nw) := by
    rw [decodeWords_sto nw hrow]
    exact undefined_storeOf (fun _ => rfl) (fun _ => rfl) h
  have sto8 (hrow : w.toNat / 8 % 32 = 27) (h : w.toNat % 8 = 1 ∨ w.toNat % 8 = 0 ∧ w.getLsbD 8 = false) :
      Undefined (decodeWords w nw) := by
    rw [decodeWords_sto8 nw hrow]
    exact undefined_storeOf (fun _ => rfl) (fun _ => rfl) h
  have hlo : w.toNat % 256 = lo := rfl
  rcases h with h | h | ⟨h1, h2⟩ | h | h | ⟨h | h, h8⟩ | ⟨h, h9⟩
  · exact octet (List.mem_append_left [0x9A, 0x9B, 0x9C, 0x9D, 0x9E] h)
  · rw [decodeWords_of_le h, decodeOther_of_le h]
    exact fun _ => rfl
  · refine octet ?_
    have hmem : lo ∈ [0x9A, 0x9B, 0x9C, 0x9D, 0x9E] := by
      generalize lo = n at h1 h2
      interval_cases n <;> decide
    exact List.mem_append_right [0xB5, 0xB6, 0xB7, 0xBC, 0xBD, 0xBE, 0xBF, 0xC8, 0xC9, 0xCA, 0xCB] hmem
  · exact sto (by omega) (.inl (by omega))
  · exact sto8 (by omega) (.inl (by omega))
  · exact sto (by omega) (.inr ⟨by omega, h8⟩)
  · exact sto8 (by omega) (.inr ⟨by omega, h8⟩)
  · exact other (by omega) (by omega) (undefined_bankMap nw h h9)

-- Branches.

theorem branchTarget_eq (off : BitVec 8) (s : State) : branchTarget off s =
    BitVec.ofInt 16 ((addrOf s).toNat + (if s.cfg.branchNext then 2 else 0) + 2 * off.toInt) := by
  have ha : BitVec.ofInt 16 (addrOf s).toNat = addrOf s := by
    rw [BitVec.ofInt_natCast, BitVec.ofNat_toNat, BitVec.setWidth_eq]
  have hb : BitVec.ofInt 16 (if s.cfg.branchNext then 2 else 0) = if s.cfg.branchNext then 2 else 0 := by
    split <;> rfl
  rw [BitVec.ofInt_add, BitVec.ofInt_add, BitVec.ofInt_mul, ha, hb]
  rfl

theorem branch_eq (cond : Bool) (off : BitVec 8) (s : State) :
    branch cond off s = .next (s.setPc (if cond then branchTarget off s else addrOf s + 2)) := by
  cases cond <;> rfl

theorem hiOctet_eq (w : Word) : w.extractLsb' 8 8 = BitVec.ofNat 8 (w.toNat / 256) := BitVec.eq_of_toNat_eq (by
  simp [BitVec.extractLsb'_toNat, Nat.shiftRight_eq_div_pow])

/-- Settles O21: every branch runs one frame, and each octet selects its row. -/
theorem branchesByFlags : Obligations.BranchesByFlags := by
  intro w nw s off target p hp
  have hoff : w.extractLsb' 8 8 = off := hiOctet_eq w
  have row {n : Nat} {i : Instr} {cond : Bool} (hx : exec i s = branch cond off s) (hlo : 0x90 ≤ n) (hhi : n < 0xD0)
      (hd : w.toNat % 256 = n → decodeOther w nw = i) : exec i s = .next (s.setPc (if cond then target else addrOf s + 2)) ∧
      (w.toNat % 256 = n → decodeWords w nw = i) := by
    refine ⟨by rw [hx, branch_eq, branchTarget_eq], fun h => ?_⟩
    rw [decodeWords_eq_decodeOther nw (h ▸ hlo) (h ▸ hhi), hd h]
  fin_cases hp
  all_goals
    dsimp only
    refine row rfl (by decide) (by decide) fun h => ?_
    simp only [decodeOther, lowOctet_toNat, h, hoff]

-- HWQ $05 to $FF and SWI.

/-- Settles O41. -/
theorem hwqRestRefused : Obligations.HwqRestRefused := by
  intro op s h
  refine ⟨fun nw => ?_, fun hS => ?_, fun hS => takes_of_finish ?_ Cause.noConfusion⟩
  · have hlow : (op ++ 0xC4#8 : Word).extractLsb' 0 8 = 0xC4 := BitVec.extractLsb'_append_eq_right
    have hhigh : (op ++ 0xC4#8 : Word).extractLsb' 8 8 = op := by
      simp (disch := decide) [-Nat.reduceAdd, BitVec.extractLsb'_append_eq_of_le]
    rw [decodeWords_append nw (by decide) (by decide), decodeOther_hwq nw hlow, hhigh, hwqOf_of_le h]
  · change (if s.ps.S then _ else _) = _
    rw [hS]
    rfl
  · change (if s.ps.S then _ else _) = _
    rw [hS]
    rfl

/-- Settles O28. -/
theorem swiTakenWhenEnabled : Obligations.SwiTakenWhenEnabled := by
  intro s
  refine ⟨fun h => ?_, fun hI hg => ?_⟩
  · have hcond : (s.ps.I || !s.cfg.swiGated) = true := by rcases h with h | h <;> simp [h]
    change finish s (if s.ps.I || !s.cfg.swiGated then _ else _) = _
    rw [hcond]
    rfl
  · change finish s (if s.ps.I || !s.cfg.swiGated then _ else _) = _
    rw [hI, hg]
    rfl

end Sys2Proof.Machine
end

section
/-! PROOFS. The fetch and the step that runs the decoded instruction (spec/00_scope.md R11, spec/20_memory.md R66, R72), the
privileged instructions in User mode (spec/60_exceptions.md R367, R389), and TRS (spec/49_processor.md R341). -/

namespace Sys2Proof.Machine

-- Privileged instructions in User mode.

/-- The instruction is privileged: in User mode it only takes UnprivOpcode. -/
def Privileged (i : Instr) : Prop := ∀ s, s.ps.S = false → exec i s = finish s (.raise .unprivOpcode s)

theorem privileged_of_requirePriv {i : Instr} (h : ∀ s, ∃ k, exec i s = finish s (requirePriv s k)) : Privileged i := by
  intro s hS
  obtain ⟨k, hk⟩ := h s
  rw [hk, requirePriv_of_not_S hS]

/-- The words JMU, MML and MMS are those with the low octets $C2, $CE and $CF. -/
theorem privilegedOperand_iff (w : Word) : privilegedOperand w = true ↔ w.toNat % 256 ∈ [0xC2, 0xCE, 0xCF] := by
  simp only [privilegedOperand, Bool.or_eq_true, beq_iff_eq, ← BitVec.toNat_inj, toNat_loByte, List.mem_cons,
    List.not_mem_nil, or_false, or_assoc]
  rfl

theorem privileged_of_privilegedOperand {w : Word} (h : privilegedOperand w = true) (nw : Word) :
    Privileged (decodeWords w nw) := by
  rw [privilegedOperand_iff] at h
  have hrange : ∀ n ∈ [0xC2, 0xCE, 0xCF], 0x90 ≤ n ∧ n < 0xD0 := by decide
  obtain ⟨hlo, hhi⟩ := hrange _ h
  rw [decodeWords_eq_decodeOther nw hlo hhi]
  simp only [decodeOther, lowOctet_toNat]
  generalize w.toNat % 256 = lo at h
  fin_cases h <;> exact privileged_of_requirePriv fun s => ⟨_, rfl⟩

theorem fetchInstr_of_privilegedOperand {s t : State} {w : Word} (hS : s.ps.S = false) (hw : privilegedOperand w = true)
    (h : readWord .exec (addrOf s) s = .ok w t) : fetchInstr s = .ok (decodeWords w 0) t := by
  change (readWord .exec (addrOf s) s).bind _ = _
  rw [h, Res.bind_ok, hS, hw]
  simp only [Bool.not_true, Bool.or_false, Bool.and_false, Bool.false_eq_true, if_false]

theorem step_of_inputs_nil {s : State} (h : s.inputs = []) : step s = runInstr s := by
  simp only [step, runStep, h]

theorem runInstr_of_fetch {s t : State} {i : Instr} (hh : s.halted = false) (h : fetchInstr s = .ok i t) :
    runInstr s = exec i t := by
  simp only [runInstr, hh, Bool.false_eq_true, if_false, h]

theorem runInstr_of_fault {s t : State} {c : Cause} (hh : s.halted = false) (h : fetchInstr s = .raise c t) :
    runInstr s = finish s (.raise c t) := by
  simp only [runInstr, hh, Bool.false_eq_true, if_false, h]

/-- Settles O49: the privileged instructions by their check; in a step the instruction is decoded without its next word. -/
theorem privilegedTrapsInUserMode : Obligations.PrivilegedTrapsInUserMode := by
  intro s hS
  refine ⟨fun m rv ra i hi => ?_, fun w t hi hh h hw => ?_⟩
  · have hpriv : Privileged i := by
      fin_cases hi
      all_goals exact privileged_of_requirePriv fun s => ⟨_, rfl⟩
    exact takes_of_finish (hpriv s hS) Cause.noConfusion
  · have hw := (privilegedOperand_iff w).2 hw
    obtain ⟨_, _, _, hf⟩ := readWord_ok h
    have haddr : addrOf t = addrOf s := congrArg (· &&& 0xFFFE) hf.store.pc
    rw [step_of_inputs_nil hi, runInstr_of_fetch hh (fetchInstr_of_privilegedOperand hS hw h),
      privileged_of_privilegedOperand hw 0 t (by rw [hf.store.ps, hS]), finish_error Cause.noConfusion, haddr]

-- The fetch.

theorem fetchInstr_of_short {s : State} {w : Word} (hn : needsNextWord w = false)
    (h : readWord .exec (addrOf s) s = .ok w s) : fetchInstr s = .ok (decodeWords w 0) s := by
  change (readWord .exec (addrOf s) s).bind _ = _
  rw [h, Res.bind_ok, hn]
  simp only [Bool.false_and, Bool.false_eq_true, if_false]

theorem fetchInstr_of_long {s : State} {w : Word} (hn : needsNextWord w = true)
    (hp : s.ps.S = true ∨ privilegedOperand w = false) (h : readWord .exec (addrOf s) s = .ok w s) :
    fetchInstr s = (readWord .exec (addrOf s + 2) s).bind fun nw u => .ok (decodeWords w nw) u := by
  have hcond : (needsNextWord w && (s.ps.S || !privilegedOperand w)) = true := by
    rcases hp with hp | hp <;> simp [hn, hp]
  change (readWord .exec (addrOf s) s).bind _ = _
  rw [h, Res.bind_ok, if_pos hcond]
  rfl

/-- The two forms of the bytes that decode to an instruction and to nothing more. -/
theorem decode_cases {i : Instr} {bs : List Byte} (h : decode bs = .ok (i, [])) :
    (∃ b0 b1, bs = [b0, b1] ∧ needsNextWord (wordOf b0 b1) = false ∧ decodeWords (wordOf b0 b1) 0 = i) ∨
    ∃ b0 b1 b2 b3, bs = [b0, b1, b2, b3] ∧ needsNextWord (wordOf b0 b1) = true ∧
      decodeWords (wordOf b0 b1) (wordOf b2 b3) = i := by
  unfold decode at h
  split at h
  case h_2 => cases h
  split at h
  case isFalse hn =>
    cases h
    exact .inl ⟨_, _, rfl, Bool.eq_false_iff.2 hn, rfl⟩
  case isTrue hn =>
    split at h
    · cases h
      exact .inr ⟨_, _, _, _, rfl, hn, rfl⟩
    · cases h

/-- Bytes too few for their instruction are those of a word with a next word. -/
theorem needsNextWord_of_decode {b0 b1 : Byte} (h : ∀ r, decode [b0, b1] ≠ .ok r) : needsNextWord (wordOf b0 b1) = true := by
  cases hn : needsNextWord (wordOf b0 b1) with
  | true => rfl
  | false => exact absurd (by simp only [decode, hn, Bool.false_eq_true, if_false]) (h (decodeWords (wordOf b0 b1) 0, []))

theorem runInstr_of_bytes {s : State} {i : Instr} {bs : List Byte} (hh : s.halted = false) (hd : decode bs = .ok (i, []))
    (hb : ∀ (j : Nat) (h : j < bs.length), HoldsByte s .exec (addrOf s + BitVec.ofNat 16 j) bs[j]) :
    runInstr s = exec i s := by
  rcases decode_cases hd with ⟨b0, b1, rfl, hn, rfl⟩ | ⟨b0, b1, b2, b3, rfl, hn, rfl⟩
  · have h0 : HoldsByte s .exec (addrOf s) b0 := by simpa using hb 0 (by simp)
    exact runInstr_of_fetch hh (fetchInstr_of_short hn (readWord_of_holdsByte h0 (hb 1 (by simp))))
  · have h0 : HoldsByte s .exec (addrOf s) b0 := by simpa using hb 0 (by simp)
    have hw : readWord .exec (addrOf s) s = .ok (wordOf b0 b1) s := readWord_of_holdsByte h0 (hb 1 (by simp))
    have h3 : HoldsByte s .exec (addrOf s + 2 + 1) b3 := by
      rw [BitVec.add_assoc]
      exact hb 3 (by simp)
    by_cases hp : s.ps.S = true ∨ privilegedOperand (wordOf b0 b1) = false
    · have hnw := readWord_of_holdsByte (hb 2 (by simp)) h3
      have hf := fetchInstr_of_long hn hp hw
      rw [show addrOf s + 2 = addrOf s + 2#16 from rfl, hnw] at hf
      exact runInstr_of_fetch hh hf
    · obtain ⟨hS, hp⟩ := not_or.1 hp
      rw [Bool.not_eq_true] at hS
      rw [Bool.not_eq_false] at hp
      rw [runInstr_of_fetch hh (fetchInstr_of_privilegedOperand hS hp hw), privileged_of_privilegedOperand hp _ s hS,
        privileged_of_privilegedOperand hp _ s hS]

/-- Settles O54: the fetch finds the words the bytes make, or faults at the first or the second of them. -/
theorem stepRunsDecoded : Obligations.StepRunsDecoded := by
  intro s hh
  refine ⟨step_of_inputs_nil, fun i bs hd hb => runInstr_of_bytes hh hd hb, fun c h => ?_, fun c b0 b1 h0 h1 hd hp h => ?_⟩
  · have hf : fetchInstr s = .raise c s := by
      change (readWord .exec (addrOf s) s).bind _ = _
      rw [readWord_of_error h, Res.bind_raise]
    rw [runInstr_of_fault hh hf, finish_error (bankFault_ne_swi (translatePair_bankFault h))]
  · have hp : s.ps.S = true ∨ privilegedOperand (wordOf b0 b1) = false := by
      refine hp.imp_right fun hn => Bool.eq_false_iff.2 fun hpriv => hn ?_
      have hb0 : b0.toNat = (wordOf b0 b1).toNat % 256 := by rw [← toNat_loByte, loByte_wordOf]
      rw [hb0]
      exact (privilegedOperand_iff _).1 hpriv
    have hf : fetchInstr s = .raise c s := by
      rw [fetchInstr_of_long (needsNextWord_of_decode hd) hp (readWord_of_holdsByte h0 h1), readWord_of_error h, Res.bind_raise]
    rw [runInstr_of_fault hh hf, finish_error (bankFault_ne_swi (translatePair_bankFault h))]

-- A write of PS.

theorem statusOf_hiByte (w : Word) : statusOf (hiByte w) =
    { S := w.getLsbD 15, M := w.getLsbD 14, I := w.getLsbD 13, R := w.getLsbD 12,
      Q := w.getLsbD 11, U := w.getLsbD 10, W := w.getLsbD 9, E := w.getLsbD 8 } := by
  simp (disch := decide) only [statusOf, getLsbD_hiByte, Nat.reduceAdd]

theorem flagsOf_hiByte (w : Word) : flagsOf (hiByte w) =
    { N := w.getLsbD 15, Z := w.getLsbD 14, C := w.getLsbD 13, V := w.getLsbD 12 } := by
  simp (disch := decide) only [flagsOf, getLsbD_hiByte, Nat.reduceAdd]

theorem writePs_ps (p : Status) (s : State) : (writePs p s).ps = p := by rw [writePs_eq]
theorem writePs_fl (p : Status) (s : State) : (writePs p s).fl = s.fl := by rw [writePs_eq]
theorem writePs_reg (p : Status) (s : State) (r : Reg) : (writePs p s).reg r = s.reg r := by rw [writePs_eq]; rfl

/-- The bank map after a write of PS (20_memory.md R79). -/
theorem writePs_mapFollowsM (p : Status) (s : State) : MapFollowsM s (writePs p s) := by
  intro k
  rw [writePs_eq]
  dsimp only [State.bank]
  split
  · rfl
  · exact defaultMap_get p.R k

theorem writePs_sameStacks (p : Status) (s : State) : SameStacks s (writePs p s) := by
  rw [writePs_eq]
  exact ⟨rfl, rfl⟩

theorem writePs_sameMmu (p : Status) (s : State) : SameMmu s (writePs p s) := by
  rw [writePs_eq]
  exact fun _ => rfl

theorem writePs_sameRest (p : Status) (s : State) : SameRest s (writePs p s) := by
  rw [writePs_eq]
  exact ⟨rfl, rfl, rfl, rfl, rfl, rfl, rfl, rfl, rfl, ⟨fun _ => rfl, fun _ => rfl⟩⟩

theorem SameRest.setPc {s t : State} (h : SameRest s t) (a : Word) : SameRest s (t.setPc a) :=
  { h with memory := { h.memory with } }

theorem SameStacks.setPc {s t : State} (h : SameStacks s t) (a : Word) : SameStacks s (t.setPc a) := { h with }

-- TRS.

theorem trsAllowed_iff (sr : BitVec 5) : trsAllowed sr = true ↔ sr.toNat = 0 ∨ sr.toNat = 1 := by
  simp only [trsAllowed, Bool.or_eq_true, beq_iff_eq, ← BitVec.toNat_inj]
  rfl

theorem trs_writes {rs : Reg} {sr : BitVec 5} {s t : State} (h : s.ps.S = true ∨ sr.toNat = 1) (h0 : sr.toNat ≠ 0)
    (ht : writeSpecial sr (s.reg rs) s = t) : exec (.trs rs sr) s = .next { t with pc := addrOf s + 2 } := by
  have hok : (!s.ps.S && !trsAllowed sr) = false := by
    rcases h with h | h
    · simp [h]
    · simp [(trsAllowed_iff sr).2 (.inr h)]
  have hne : sr ≠ 0 := fun h => h0 (by rw [h]; rfl)
  change finish s (if !s.ps.S && !trsAllowed sr then _ else if sr = 0 then _ else _) = _
  rw [hok, if_neg hne, ht]
  rfl

/-- The indices $08 to $1F name no register (R342). -/
theorem writeSpecial_of_le {sr : BitVec 5} (h : 8 ≤ sr.toNat) (v : Word) (s : State) : writeSpecial sr v s = s := by
  obtain ⟨k, hk⟩ : ∃ k, sr.toNat = k + 8 := ⟨_, (Nat.sub_add_cancel h).symm⟩
  rw [writeSpecial, hk]
  rfl

/-- Settles O47: the row of each index. -/
theorem trsWritesSpecial : Obligations.TrsWritesSpecial := by
  intro rs sr s v writes
  have key {t : State} (h : s.ps.S = true ∨ sr.toNat = 1) (h0 : sr.toNat ≠ 0) (ht : writeSpecial sr v s = t) : writes t :=
    trs_writes h h0 ht
  refine ⟨fun h => ?pc, fun h hS => key (.inl hS) (by omega) ?sspNow, fun h hS => key (.inr h) (by omega) ?uspNow,
    fun hS => ⟨fun h => key (.inl hS) (by omega) ?ia, fun h => key (.inl hS) (by omega) ?ii,
      fun h => key (.inl hS) (by omega) ?p2, fun h => key (.inl hS) (by omega) ?usp, fun h => key (.inl hS) (by omega) ?ssp,
      fun h => key (.inl hS) (by omega) (writeSpecial_of_le h v s), fun h => ?ps⟩, fun hS h0 h1 => ?refused⟩
  case pc =>
    have hsr : sr = 0 := BitVec.eq_of_toNat_eq h
    have hok : (!s.ps.S && !trsAllowed sr) = false := by simp [(trsAllowed_iff sr).2 (.inl h)]
    change finish s (if !s.ps.S && !trsAllowed sr then _ else if sr = 0 then _ else _) = _
    rw [hok, if_pos hsr]
    rfl
  case sspNow =>
    rw [writeSpecial, h]
    simp [State.setSp, hS, State.setSsp]
  case uspNow =>
    rw [writeSpecial, h]
    simp [State.setSp, hS, State.setUsp]
  case ps =>
    have hw : writeSpecial sr v s = writePs (statusOf (hiByte v)) s := by
      rw [writeSpecial, h]
      rfl
    exact ⟨_, key (.inl hS) (by omega) hw, rfl, (writePs_ps ..).trans (statusOf_hiByte v), writePs_mapFollowsM _ s,
      writePs_fl _ s, writePs_reg _ s, (writePs_sameStacks _ s).setPc _, writePs_sameMmu _ s, (writePs_sameRest _ s).setPc _⟩
  case refused =>
    refine takes_of_finish ?_ Cause.noConfusion
    have hno : trsAllowed sr = false := Bool.eq_false_iff.2 fun h => ((trsAllowed_iff sr).1 h).elim h0 h1
    change finish s (if !s.ps.S && !trsAllowed sr then _ else _) = _
    rw [hS, hno]
    rfl
  all_goals
    rw [writeSpecial, h]
    rfl

end Sys2Proof.Machine
end

section
/-! PROOFS. Floating point (spec/44_fpu.md): the operands read, the result pushed or the error taken (R244, R249), and the
constraints of the arithmetic (R243). -/

namespace Sys2Proof.Machine

-- The constraints C-a to C-e.

theorem expField_eq (x : BitVec 32) : expField x = x.toNat / 2 ^ 23 % 256 := by
  rw [expField, BitVec.extractLsb'_toNat, Nat.shiftRight_eq_div_pow]

theorem fpFlush_zero : fpFlush 0#32 = 0#32 := rfl
theorem fpFlush_of_zero {x : BitVec 32} (h : expField x = 0) : fpFlush x = 0 := if_pos h
theorem fpFlush_of_ne_zero {x : BitVec 32} (h : expField x ≠ 0) : fpFlush x = x := if_neg h

/-- A flushed pattern with exponent field 0 is the clean zero. -/
theorem fpFlush_eq_zero {x : BitVec 32} (h : expField (fpFlush x) = 0) : fpFlush x = 0 := by
  by_cases hx : expField x = 0
  · exact fpFlush_of_zero hx
  · rw [fpFlush_of_ne_zero hx] at h
    exact absurd h hx

theorem expField_fpFlush_ne {x : BitVec 32} (h : expField x ≠ 255) : expField (fpFlush x) ≠ 255 := by
  by_cases hx : expField x = 0
  · rw [fpFlush_of_zero hx]
    decide
  · rwa [fpFlush_of_ne_zero hx]

theorem fpArith_flush_left (inst : FpInstance) (op : FpOp) {x : BitVec 32} (y : BitVec 32) (h : expField x = 0) :
    fpArith inst op x y = fpArith inst op 0 y := by
  simp only [fpArith, fpFlush_of_zero h, show fpFlush 0 = 0 from rfl]

theorem fpArith_flush_right (inst : FpInstance) (op : FpOp) (x : BitVec 32) {y : BitVec 32} (h : expField y = 0) :
    fpArith inst op x y = fpArith inst op x 0 := by
  simp only [fpArith, fpFlush_of_zero h, h, show fpFlush 0 = 0 from rfl, show expField 0 = 0 from rfl]

/-- A result is flushed. -/
theorem fpArith_ok {inst : FpInstance} {op : FpOp} {x y f : BitVec 32} (h : fpArith inst op x y = .ok f) :
    ∃ g, f = fpFlush g := by
  unfold fpArith at h
  split at h
  · cases h
  split at h
  · cases h; exact ⟨0, rfl⟩
  split at h
  · cases h; exact ⟨_, rfl⟩
  · cases h

theorem fpArith_divZero {inst : FpInstance} {op : FpOp} {x y : BitVec 32} (h : fpArith inst op x y = .err true) :
    op = .div ∧ expField y = 0 := by
  unfold fpArith at h
  split at h
  · assumption
  split at h
  · cases h
  split at h <;> cases h

theorem fpArith_of_knownZero {inst : FpInstance} {op : FpOp} {x y : BitVec 32} (hop : op ≠ .div)
    (h : fpKnownZero op (fpFlush x) (fpFlush y) = true) : fpArith inst op x y = .ok 0 := by
  rw [fpArith, if_neg (fun hd => hop hd.1), if_pos h]

/-- Settles O27: C-a and C-d by the first test, C-b and C-c by the flushing, C-e by the second test. -/
theorem fpuConstraintsHold : Obligations.FpuConstraintsHold := by
  intro inst op x y field
  have hfield (z : BitVec 32) : field z = expField z := (expField_eq z).symm
  simp only [hfield]
  refine ⟨fun h => ?ca, fpArith_flush_left inst op y, fpArith_flush_right inst op x, fun f h h0 => ?cc, fpArith_divZero,
    fpArith_of_knownZero (by decide) rfl, fpArith_of_knownZero (by decide) rfl, fun h => ?left, fun h => ?right⟩
  case ca => rw [fpArith, if_pos ⟨rfl, h⟩]
  case cc =>
    obtain ⟨g, rfl⟩ := fpArith_ok h
    exact fpFlush_eq_zero h0
  case left =>
    refine fpArith_of_knownZero (by decide) ?_
    simp [fpKnownZero, fpFlush_zero, expField_fpFlush_ne h]
  case right =>
    refine fpArith_of_knownZero (by decide) ?_
    simp [fpKnownZero, fpFlush_zero, expField_fpFlush_ne h]

-- The frame R244.

theorem readFloat_of_words {p w0 w1 : Word} {s t u : State} (h0 : readWord .read p s = .ok w0 t)
    (h1 : readWord .read (p + 2) t = .ok w1 u) : readFloat p s = .ok (w1 ++ w0) u := by
  simp only [readFloat, h0, h1, Res.bind_ok]

theorem exec_fpu (rx ry : Reg) (s : State) :
    ∀ p ∈ [(FpOp.add, Instr.fpa rx ry), (.sub, .fps rx ry), (.mul, .fpm rx ry), (.div, .fpd rx ry)],
    exec p.2 s = fpuOp p.1 rx ry s := by
  intro p hp
  fin_cases hp <;> rfl

theorem fpuOp_of_err {op : FpOp} {rx ry : Reg} {s t u : State} {x y : BitVec 32} {dz : Bool}
    (hx : readFloat (s.reg rx) s = .ok x t) (hy : readFloat (s.reg ry) t = .ok y u)
    (hf : fpArith s.cfg.fp op x y = .err dz) : fpuOp op rx ry s = finish s (.raise .fpuError (u.setFl (fpErrorFlags dz))) := by
  simp only [fpuOp, hx, hy, Res.bind_ok, hf]

theorem fpuOp_of_ok {op : FpOp} {rx ry : Reg} {s t u : State} {x y f : BitVec 32}
    (hx : readFloat (s.reg rx) s = .ok x t) (hy : readFloat (s.reg ry) t = .ok y u)
    (hf : fpArith s.cfg.fp op x y = .ok f) : fpuOp op rx ry s =
      finish s ((pushFloat f u).bind fun _ w => .ok () (next 2 s (w.setFl (fpFlags f s.fl)))) := by
  simp only [fpuOp, hx, hy, Res.bind_ok, hf]

theorem readWord_onlyBus {k : Access} {a v : Word} {s t : State} (h : readWord k a s = .ok v t) : OnlyBus s t := by
  obtain ⟨_, _, _, hf⟩ := readWord_ok h
  exact hf

-- Pushes after reads: what is unchanged before a store, and the store's own frame.

theorem SameStatus.trans {s t u : State} (h : SameStatus s t) (g : SameStatus t u) : SameStatus s u where
  ps       := g.ps.trans h.ps
  psClean  := g.psClean.trans h.psClean
  ia       := g.ia.trans h.ia
  ii       := g.ii.trans h.ii
  p2       := g.p2.trans h.p2
  im       := fun k => (g.im k).trans (h.im k)
  ramEpoch := g.ramEpoch.trans h.ramEpoch
  halted   := g.halted.trans h.halted
  tick     := g.tick.trans h.tick
  rtcTime  := g.rtcTime.trans h.rtcTime
  inputs   := g.inputs.trans h.inputs
  cfg      := g.cfg.trans h.cfg

/-- Translation is the same where status, bank map and MMU words are. -/
theorem Unchanged.translate {keep : Reg → Prop} {s t : State} (h : Unchanged keep s t) (a : Word) (k : Access) :
    Machine.translate t a k = Machine.translate s a k := by
  unfold Machine.translate
  rw [h.status.ps, h.mmu, h.mmu, h.status.im, h.status.cfg]

theorem Unchanged.translatePair {keep : Reg → Prop} {s t : State} (h : Unchanged keep s t) (a : Word) (k : Access) :
    Machine.translatePair t a k = Machine.translatePair s a k := by
  rw [Machine.translatePair, h.translate, h.translate, Machine.translatePair]

theorem Unchanged.writesByte {keep : Reg → Prop} {s t : State} (h : Unchanged keep s t) (a : Word) (k : Nat) :
    WritesByte t a k ↔ WritesByte s a k := by
  rw [WritesByte, h.translate, WritesByte]

theorem Unchanged.sp {keep : Reg → Prop} {s t : State} (h : Unchanged keep s t) : t.sp = s.sp := by
  rw [State.sp, h.status.ps, h.sps.ssp, h.sps.usp, State.sp]

theorem Unchanged.canPush {keep : Reg → Prop} {s t : State} (h : Unchanged keep s t) {n : Nat} (hp : CanPush n s) :
    CanPush n t := fun i hi => by
  rw [h.sp, h.translatePair]
  exact hp i hi

theorem Unchanged.then_but {keep keep' : Reg → Prop} {s t u : State} {a : Word} {n : Nat} (h : Unchanged keep s t)
    (g : UnchangedBut keep' t a n u) : UnchangedBut (fun r => keep r ∧ keep' r) s a n u where
  regs   := fun r ⟨hr, hr'⟩ => (g.regs r hr').trans (h.regs r hr)
  status := h.status.trans g.status
  mmu    := fun k => by
    have hk := g.mmu k
    rwa [h.mmu k, h.status.ps] at hk
  memory := ⟨fun k hk => (g.memory.1 k fun j hj hw => hk j hj ((h.writesByte _ k).1 hw)).trans (h.memory.ram k),
    fun k => (g.memory.2 k).trans (h.memory.rom k)⟩

/-- Settles O26: the frame with an error; nothing is pushed. -/
theorem fpuErrorIsTaken : Obligations.FpuErrorIsTaken := by
  intro rx ry s t1 t2 t3 t4 x0 x1 y0 y1 h0 h1 h2 h3 p hp dz hf
  have hbus : OnlyBus s t4 :=
    (((readWord_onlyBus h0).trans (readWord_onlyBus h1)).trans (readWord_onlyBus h2)).trans (readWord_onlyBus h3)
  refine ⟨takes_of_finish ?_ Cause.noConfusion, hbus.store.pc, hbus.store.fl, hbus.unchanged _⟩
  exact (exec_fpu rx ry s p hp).trans (fpuOp_of_err (readFloat_of_words h0 h1) (readFloat_of_words h2 h3) hf)

theorem pushFloat_eq (f : BitVec 32) (s : State) :
    pushFloat f s = pushWords [f.extractLsb' 16 16, f.extractLsb' 0 16] s := by
  have hlast (v : Word) (t : State) : push v t = (push v t).bind fun _ u => .ok () u := by cases push v t <;> rfl
  simp only [pushFloat, pushWords]
  congr
  funext _ t
  exact hlast _ t

/-- The flags of a result: its sign, the pattern $00000000, C and V kept (R244). -/
theorem fpFlags_eq (f : BitVec 32) (fl : Flags) :
    fpFlags f fl = { N := f.getLsbD 31, Z := decide (f = 0), C := fl.C, V := fl.V } := by
  rw [fpFlags, BitVec.msb_eq_getLsbD_last]
  rfl

/-- A field of a field. -/
theorem extract_extract {w n b m : Nat} (x : BitVec w) (a : Nat) (h : b + m ≤ n) :
    (x.extractLsb' a n).extractLsb' b m = x.extractLsb' (a + b) m := by
  ext i hi
  have hlt : b + i < n := by omega
  simp [hlt, Nat.add_assoc]

/-- Settles O25: the two pushes of the result after the reads of the operands. -/
theorem fpuResultIsPushed : Obligations.FpuResultIsPushed := by
  intro rx ry s t1 t2 t3 t4 x0 x1 y0 y1 h0 h1 h2 h3 hcan p hp f hf
  have hbus : OnlyBus s t4 :=
    (((readWord_onlyBus h0).trans (readWord_onlyBus h1)).trans (readWord_onlyBus h2)).trans (readWord_onlyBus h3)
  have hreads : Unchanged (fun _ => True) s t4 := hbus.unchanged _
  obtain ⟨w, hw⟩ := pushWords_of_canPush (ws := [f.extractLsb' 16 16, f.extractLsb' 0 16]) (hreads.canPush hcan)
  have hx : exec p.2 s = .next (next 2 s (w.setFl (fpFlags f s.fl))) := by
    rw [exec_fpu rx ry s p hp, fpuOp_of_ok (readFloat_of_words h0 h1) (readFloat_of_words h2 h3) hf, pushFloat_eq, hw]
    rfl
  obtain ⟨hpush, hsp, -, -⟩ := pushWords_ok hw
  rw [hreads.sp] at hsp
  have hpair (k : Nat) := pushWords_pair hw k
  have hbut := hreads.then_but (pushWords_unchangedBut hw)
  simp only [hreads.sp, hreads.writesByte] at hpair hbut
  refine ⟨_, hx, hsp, fpFlags_eq f s.fl, rfl, fun hS => ?usp, fun hS => ?ssp, ⟨fun k => (hpair k).1, fun k => (hpair k).2.1⟩,
    fun k h4 h3 => ?high, ((hbut.mono fun _ h => ⟨trivial, h⟩).setFl _).setPc _⟩
  case usp => exact (hpush.super (by rw [hreads.status.ps, hS])).trans hreads.sps.usp
  case ssp => exact (hpush.user (by rw [hreads.status.ps, hS])).trans hreads.sps.ssp
  case high =>
    have hlow : loByte (f.extractLsb' 16 16) = f.extractLsb' 16 8 := extract_extract f 16 (by decide)
    have hhigh : hiByte (f.extractLsb' 16 16) = f.extractLsb' 24 8 := extract_extract f 16 (by decide)
    rw [← hlow, ← hhigh]
    exact (hpair k).2.2 h4 h3

end Sys2Proof.Machine
end

section
/-! PROOFS. RTI (spec/46_interrupt_instr.md R271) and the jumps JMP, JSR and JMU (spec/47_jump_call.md R281 to R284). -/

namespace Sys2Proof.Machine

-- What pops and writes of PS leave, in sequence.

theorem SameRest.trans {s t u : State} (h : SameRest s t) (g : SameRest t u) : SameRest s u where
  ia       := g.ia.trans h.ia
  ii       := g.ii.trans h.ii
  p2       := g.p2.trans h.p2
  ramEpoch := g.ramEpoch.trans h.ramEpoch
  halted   := g.halted.trans h.halted
  tick     := g.tick.trans h.tick
  rtcTime  := g.rtcTime.trans h.rtcTime
  inputs   := g.inputs.trans h.inputs
  cfg      := g.cfg.trans h.cfg
  memory   := ⟨fun a => (g.memory.ram a).trans (h.memory.ram a), fun a => (g.memory.rom a).trans (h.memory.rom a)⟩

/-- The frame of a sequence of pops and of writes of PS and of the stack pointers. -/
structure KeptByPops (s t : State) : Prop where
  fl   : t.fl = s.fl
  pc   : t.pc = s.pc
  regs : ∀ r, t.reg r = s.reg r
  mmu  : SameMmu s t
  rest : SameRest s t

theorem KeptByPops.refl (s : State) : KeptByPops s s :=
  ⟨rfl, rfl, fun _ => rfl, fun _ => rfl, ⟨rfl, rfl, rfl, rfl, rfl, rfl, rfl, rfl, rfl, ⟨fun _ => rfl, fun _ => rfl⟩⟩⟩

theorem KeptByPops.trans {s t u : State} (h : KeptByPops s t) (g : KeptByPops t u) : KeptByPops s u :=
  ⟨g.fl.trans h.fl, g.pc.trans h.pc, fun r => (g.regs r).trans (h.regs r), fun k => (g.mmu k).trans (h.mmu k),
    h.rest.trans g.rest⟩

theorem OnlyPop.kept {s t : State} (h : OnlyPop s t) : KeptByPops s t := by
  have hs := h.status
  exact ⟨h.fl, h.pc, h.reg, h.mmu,
    ⟨hs.ia, hs.ii, hs.p2, hs.ramEpoch, hs.halted, hs.tick, hs.rtcTime, hs.inputs, hs.cfg, h.memory⟩⟩

theorem writePs_kept (p : Status) (s : State) : KeptByPops s (writePs p s) :=
  ⟨writePs_fl p s, by rw [writePs_eq], writePs_reg p s, writePs_sameMmu p s, writePs_sameRest p s⟩

/-- The bank map follows M also where pops came before the write of PS. -/
theorem MapFollowsM.congr {s t u : State} (h : MapFollowsM t u) (hps : t.ps = s.ps) (hbank : ∀ k, t.bank k = s.bank k) :
    MapFollowsM s u := fun k => by rw [h k, hps, hbank]

-- RTI.

theorem popWords_two {s t : State} {p q : Word} (h : popWords 2 s = .ok [p, q] t) :
    ∃ u, pop s = .ok p u ∧ pop u = .ok q t := by
  obtain ⟨v, u, l, hu, h, hl⟩ := popWords_cons h
  cases hl
  obtain ⟨w, u', l', hu', h, hl⟩ := popWords_cons h
  cases hl
  cases h
  exact ⟨u, hu, hu'⟩

/-- Settles O29: two pops, the write of PS with the flags of R271 cleared, and the jump. -/
theorem rtiPopsPcAndPs : Obligations.RtiPopsPcAndPs := by
  intro s t p q hS h
  obtain ⟨u, hp, hq⟩ := popWords_two h
  obtain ⟨hpop, hsp, -⟩ := popWords_ok h
  have hx : exec .rti s = .next ((writePs (statusOf (hiByte q)).returned t).setPc p) := by
    change finish s (requirePriv s (returnFromInterrupt s)) = _
    rw [requirePriv_of_S hS, returnFromInterrupt, hp, Res.bind_ok, popPair_of_pop hq]
    rfl
  have hstacks := writePs_sameStacks (statusOf (hiByte q)).returned t
  have hkept := hpop.kept.trans (writePs_kept (statusOf (hiByte q)).returned t)
  have hsp' : t.ssp = s.ssp + 4 := by
    rwa [sp_of_S hS, sp_of_S (by rw [hpop.ps, hS])] at hsp
  refine ⟨_, hx, rfl, ?_, (writePs_mapFollowsM _ t).congr hpop.ps hpop.status.im, hstacks.ssp.trans hsp',
    hstacks.usp.trans (hpop.super hS), hkept.fl, hkept.regs, hkept.mmu, hkept.rest.setPc p⟩
  exact (writePs_ps _ t).trans (by rw [Status.returned, statusOf_hiByte])

-- Jumps.

/-- Settles O30: the operand is read, then PC is written. -/
theorem jmpSetsPc : Obligations.JmpSetsPc := by
  intro m s t v h
  obtain ⟨hb, hu⟩ := readOperand_frame h
  refine ⟨t.setPc v, ?_, rfl, (readOperand_fl_pc h).1, hb, hu.setPc v⟩
  change finish s ((readOperand m s).bind _) = _
  rw [h]
  rfl

theorem npc_operandLength (m : Operand) (s : State) : npc (operandLength m) s = addrOf s + m.len :=
  congrArg (addrOf s + ·) (operandLength_eq m)

theorem jsr_of_readOperand {m : Operand} {s t : State} {v : Word} (h : readOperand m s = .ok v t) :
    exec (.jsr m) s = finish s ((push (addrOf s + m.len) t).bind fun _ u => .ok () (u.setPc v)) := by
  change finish s ((readOperand m s).bind fun v t => (push (npc (operandLength m) s) t).bind fun _ u => .ok () (u.setPc v)) = _
  rw [h, npc_operandLength, Res.bind_ok]

/-- Settles O31: the read of the operand changes no place a push goes to, so that the push can be judged before it. -/
theorem jsrPushesAndJumps : Obligations.JsrPushesAndJumps := by
  intro m s t v h
  obtain ⟨hb, hu⟩ := readOperand_frame h
  obtain ⟨hfl, hpc⟩ := readOperand_fl_pc h
  refine ⟨fun hcan => ?_, fun c hc => ⟨?_, hfl, hb, hu⟩⟩
  · obtain ⟨p, hp⟩ := hu.canPush hcan 0 (by decide)
    obtain ⟨w, hw⟩ := push_of_translate (v := addrOf s + m.len) hp
    have hx : exec (.jsr m) s = .next (w.setPc v) := by
      rw [jsr_of_readOperand h, hw]
      rfl
    have hpush := push_onlyPush hw
    have hsp : w.sp = s.sp - 2 := by rw [push_sp hw, hu.sp]
    have hbytes (k : Nat) := push_ramByte hw k
    have hwords : pushWords [addrOf s + m.len] t = .ok () w := by simp only [pushWords, hw, Res.bind_ok]
    have hbut := hu.then_but (pushWords_unchangedBut hwords)
    simp only [hu.sp, hu.writesByte] at hbytes hbut
    refine ⟨_, hx, rfl, hpush.store.fl.trans hfl, hsp, fun hS => ?usp, fun hS => ?ssp,
      ⟨fun k => (hbytes k).1, fun k => (hbytes k).2.1⟩, fun k hk => (hpush.store.reg k).trans (hb k hk),
      (hbut.mono fun _ h => ⟨h, trivial⟩).setPc v⟩
    case usp => exact (hpush.super (by rw [hu.status.ps, hS])).trans hu.sps.usp
    case ssp => exact (hpush.user (by rw [hu.status.ps, hS])).trans hu.sps.ssp
  · refine takes_of_finish ?_ (bankFault_ne_swi (translatePair_bankFault hc))
    have hpush : push (addrOf s + m.len) t = .raise c t := by
      rw [← hu.sp, ← hu.translatePair] at hc
      simp only [push, pushPair, writePair, hc, Res.bind_raise]
    rw [jsr_of_readOperand h, hpush, Res.bind_raise]

theorem Unchanged.rest {keep : Reg → Prop} {s t : State} (h : Unchanged keep s t) : SameRest s t :=
  have hs := h.status
  ⟨hs.ia, hs.ii, hs.p2, hs.ramEpoch, hs.halted, hs.tick, hs.rtcTime, hs.inputs, hs.cfg, h.memory⟩

/-- Settles O32: the operand is read, then S is cleared and PC written. -/
theorem jmuEntersUserMode : Obligations.JmuEntersUserMode := by
  intro m s t v hS h
  obtain ⟨hb, hu⟩ := readOperand_frame h
  have hx : exec (.jmu m) s = .next ((t.setPs { t.ps with S := false }).setPc v) := by
    change finish s (requirePriv s _) = _
    rw [requirePriv_of_S hS, h]
    rfl
  have hrest : SameRest s (t.setPs { t.ps with S := false }) := { hu.rest with memory := { hu.memory with } }
  refine ⟨_, hx, rfl, ?_, (readOperand_fl_pc h).1, hb, hu.regs, hu.status.im, ⟨hu.sps.ssp, hu.sps.usp⟩, hu.mmu,
    hrest.setPc v⟩
  exact congrArg (fun p : Status => { p with S := false }) hu.status.ps

end Sys2Proof.Machine
end

section
/-! PROOFS. The MMU cache loaded from memory and stored to it (spec/49_processor.md R337, R338), and JCX
(spec/47_jump_call.md R286), whose pops write registers between them. -/

namespace Sys2Proof.Machine

/-- A property of every cause an operation for the elements of a list can raise. -/
theorem forEach_raise {α : Type} {f : α → State → Res Unit} {P : Cause → Prop} (hf : ∀ a s c t, f a s = .raise c t → P c)
    {l : List α} {s t : State} {c : Cause} (h : forEach f l s = .raise c t) : P c := by
  induction l generalizing s with
  | nil => cases h
  | cons a l ih =>
    rcases Res.bind_eq_raise.1 h with h | ⟨_, u, _, h⟩
    · exact hf a s c t h
    · exact ih h

theorem readWord_bankFault {k : Access} {a : Word} {s t : State} {c : Cause} (h : readWord k a s = .raise c t) :
    ∃ a u w e, c = .bankFault a u w e := translatePair_bankFault (readWord_raise h).2

theorem writeWord_bankFault {a v : Word} {s t : State} {c : Cause} (h : writeWord a v s = .raise c t) :
    ∃ a u w e, c = .bankFault a u w e := translatePair_bankFault (writePair_raise h).2

-- The 32 words read (R338).

theorem loadMmu_bankFault {a : Word} {s t : State} {c : Cause} (h : loadMmu a s = .raise c t) :
    ∃ a u w e, c = .bankFault a u w e := by
  refine forEach_raise (P := fun c => ∃ a u w e, c = .bankFault a u w e) (fun i s c t h => ?_) h
  rcases Res.bind_eq_raise.1 h with h | ⟨_, _, _, h⟩
  · exact readWord_bankFault h
  · cases h

/-- With the MMU off, where an access leads does not depend on the MMU cache. -/
theorem translate_setMmu_of_not_M {s : State} (hM : s.ps.M = false) (i : Fin 32) (v a : Word) (k : Access) :
    translate (s.setMmu i v) a k = translate s a k := by
  rw [translate_of_not_M hM, translate_of_not_M (s := s.setMmu i v) hM]
  rfl

theorem loadMmu_of_not_M {s : State} (hM : s.ps.M = false) (a : Word) : ∃ t, loadMmu a s = .ok () t := by
  have key (l : List (Fin 32)) : ∀ s : State, s.ps.M = false → ∃ t, forEach (fun i t =>
      (readWord .read (a + BitVec.ofNat 16 (2 * i.val)) t).bind fun v u => .ok () (u.setMmu i v)) l s = .ok () t := by
    induction l with
    | nil => exact fun s _ => ⟨s, rfl⟩
    | cons i l ih =>
      intro s hM
      obtain ⟨v, u, hu⟩ := readWord_of_not_M hM .read (a + BitVec.ofNat 16 (2 * i.val))
      obtain ⟨t, ht⟩ := ih (u.setMmu i v) (by rw [← hM, ← (readWord_onlyBus hu).store.ps]; rfl)
      exact ⟨t, by simp only [forEach, hu, Res.bind_ok, ht]⟩
  exact key _ s hM

/-- With the MMU off, MMU word `i` is the word at the address plus `2 * i`. -/
theorem loadMmu_value {a : Word} {s t : State} (hM : s.ps.M = false) (h : loadMmu a s = .ok () t) {i : Fin 32} {w : Word}
    (hw : HoldsWord s (a + BitVec.ofNat 16 (2 * i.val)) w) : t.mmuWord i = w := by
  have key (l : List (Fin 32)) : ∀ s t : State, s.ps.M = false → forEach (fun i t =>
      (readWord .read (a + BitVec.ofNat 16 (2 * i.val)) t).bind fun v u => .ok () (u.setMmu i v)) l s = .ok () t →
      HoldsWord s (a + BitVec.ofNat 16 (2 * i.val)) w → i ∈ l ∨ s.mmuWord i = w → t.mmuWord i = w := by
    induction l with
    | nil =>
      intro s t _ h _ hi
      cases h
      exact hi.resolve_left List.not_mem_nil
    | cons j l ih =>
      intro s t hM h hw hi
      obtain ⟨_, u', hu', h⟩ := Res.bind_eq_ok.1 h
      obtain ⟨v, u, hu, hset⟩ := Res.bind_eq_ok.1 hu'
      cases hset
      have hbus := readWord_onlyBus hu
      have hMu : u.ps.M = false := by rw [hbus.store.ps, hM]
      have hwu : HoldsWord (u.setMmu j v) (a + BitVec.ofNat 16 (2 * i.val)) w :=
        (HoldsWord.congr (fun x => (translate_setMmu_of_not_M hMu j v x .read).trans (hbus.translate x .read))
          ⟨hbus.ramByte, hbus.store.romByte⟩).2 hw
      refine ih (u.setMmu j v) t hMu h hwu ?_
      rw [setMmu_mmuWord]
      by_cases hij : i = j
      · subst hij
        rw [readWord_of_holdsWord hw] at hu
        cases hu
        exact .inr (if_pos rfl)
      · rw [if_neg hij, hbus.mmuWord]
        exact hi.imp_left fun hm => (List.mem_cons.1 hm).resolve_left hij
  exact key _ s t hM h hw (.inl (List.mem_finRange i))

theorem Unchanged.holdsWord {keep : Reg → Prop} {s t : State} (h : Unchanged keep s t) (a w : Word) :
    HoldsWord t a w ↔ HoldsWord s a w := HoldsWord.congr (fun x => h.translate x .read) h.memory

/-- Settles O45: the operand, then the words. -/
theorem mmsLoadsMmuWords : Obligations.MmsLoadsMmuWords := by
  intro m s t a hS h
  obtain ⟨hb, hu⟩ := readOperand_frame h
  have hx : exec (.mms m) s = finish s ((loadMmu a t).bind fun _ u => .ok () (u.setPc (addrOf s + m.len))) := by
    change finish s (requirePriv s ((readOperand m s).bind fun a t =>
      (loadMmu a t).bind fun _ u => .ok () (u.setPc (npc (operandLength m) s)))) = _
    rw [requirePriv_of_S hS, h, npc_operandLength, Res.bind_ok]
  refine ⟨fun u hl => ?_, fun hM => loadMmu_of_not_M (by rw [hu.status.ps, hM]) a, fun c u hl => ?_⟩
  · obtain ⟨heq, -⟩ := loadMmu_frame (congrArg Res.state hl)
    change u = _ at heq
    have hstatus : SameStatus t u := by
      rw [heq]
      exact ⟨rfl, rfl, rfl, rfl, rfl, fun _ => rfl, rfl, rfl, rfl, rfl, rfl, rfl⟩
    have hfl : u.fl = s.fl := by rw [heq]; exact (readOperand_fl_pc h).1
    have hreg (k : Reg) : u.reg k = t.reg k := by rw [heq]; rfl
    have hstatus := hu.status.trans hstatus
    rw [hl] at hx
    refine ⟨u.setPc (addrOf s + m.len), hx, rfl, hfl, { hstatus with }, ⟨?ssp, ?usp⟩, ⟨fun k => ?ram, fun k => ?rom⟩,
      fun k hk => (hreg k).trans (hb k hk), fun k hk => (hreg k).trans (hu.regs k hk), fun hM i w hw => ?value⟩
    case ssp => rw [← hu.sps.ssp, heq]; rfl
    case usp => rw [← hu.sps.usp, heq]; rfl
    case ram => rw [← hu.memory.ram, heq]; rfl
    case rom => rw [← hu.memory.rom, heq]; rfl
    case value => exact loadMmu_value (by rw [hu.status.ps, hM]) hl ((hu.holdsWord _ w).2 hw)
  · exact takes_of_finish (by rw [hx, hl, Res.bind_raise]) (bankFault_ne_swi (loadMmu_bankFault hl))

-- The 32 words stored (R337).

/-- The words of the MMU cache with the indices in `l`, stored at the address of an array. -/
def storeWords (a : Word) (l : List (Fin 32)) (s : State) : Res Unit :=
  forEach (fun i t => writeWord (a + BitVec.ofNat 16 (2 * i.val)) (t.mmuWord i) t) l s

theorem storeMmu_eq (a : Word) (s : State) : storeMmu a s = storeWords a (List.finRange 32) s := rfl

theorem storeWords_cons {a : Word} {i : Fin 32} {l : List (Fin 32)} {s t : State} (h : storeWords a (i :: l) s = .ok () t) :
    ∃ u, writeWord (a + BitVec.ofNat 16 (2 * i.val)) (s.mmuWord i) s = .ok () u ∧ storeWords a l u = .ok () t := by
  obtain ⟨_, u, hu, h⟩ := Res.bind_eq_ok.1 h
  exact ⟨u, hu, h⟩

theorem storeWords_frame {a : Word} {l : List (Fin 32)} {s t : State} (h : storeWords a l s = .ok () t) :
    OnlyStore s t ∧ SameMmuButAccessed s t := by
  induction l generalizing s with
  | nil => cases h; exact ⟨OnlyStore.refl _, fun _ => .inl rfl⟩
  | cons i l ih =>
    obtain ⟨u, hu, h⟩ := storeWords_cons h
    obtain ⟨hf, hm⟩ := ih h
    exact ⟨(writeWord_frame hu).trans hf, (writePair_butAccessed hu).trans (writeWord_frame hu).ps hm⟩

theorem writeWord_writesByte {a v : Word} {s t : State} (h : writeWord a v s = .ok () t) (b : Word) (k : Nat) :
    WritesByte t b k ↔ WritesByte s b k := by
  rw [WritesByte, writePair_translate h, WritesByte]

/-- A byte that no store of the list reaches is the same. -/
theorem storeWords_other {a : Word} {l : List (Fin 32)} {s t : State} (h : storeWords a l s = .ok () t) {k : Nat}
    (hk : ∀ i ∈ l, ¬ WritesByte s (a + BitVec.ofNat 16 (2 * i.val)) k ∧ ¬ WritesByte s (a + BitVec.ofNat 16 (2 * i.val) + 1) k) :
    t.ramByte k = s.ramByte k := by
  induction l generalizing s with
  | nil => cases h; rfl
  | cons i l ih =>
    obtain ⟨u, hu, h⟩ := storeWords_cons h
    obtain ⟨h0, h1⟩ := hk i List.mem_cons_self
    refine (ih h fun j hj => ?_).trans ((writeWord_ramByte hu k).2.2 h0 h1)
    rw [writeWord_writesByte hu, writeWord_writesByte hu]
    exact hk j (List.mem_cons_of_mem i hj)

/-- With the MMU off, a stored word stands where no later store of the list overwrites it. -/
theorem storeWords_value {a : Word} {l : List (Fin 32)} (hl : l.Pairwise (· < ·)) {s t : State} (hM : s.ps.M = false)
    (h : storeWords a l s = .ok () t) {i : Fin 32} (hi : i ∈ l) {k : Nat}
    (hk : ∀ j ∈ l, i < j → ¬ WritesByte s (a + BitVec.ofNat 16 (2 * j.val)) k ∧
      ¬ WritesByte s (a + BitVec.ofNat 16 (2 * j.val) + 1) k) :
    (WritesByte s (a + BitVec.ofNat 16 (2 * i.val)) k → t.ramByte k = loByte (s.mmuWord i)) ∧
    (WritesByte s (a + BitVec.ofNat 16 (2 * i.val) + 1) k → t.ramByte k = hiByte (s.mmuWord i)) := by
  induction l generalizing s with
  | nil => exact absurd hi List.not_mem_nil
  | cons j l ih =>
    obtain ⟨hlt, htail⟩ := List.pairwise_cons.1 hl
    obtain ⟨u, hu, hrest⟩ := storeWords_cons h
    have hf := writeWord_frame hu
    have hw := writeWord_writesByte hu
    rcases List.mem_cons.1 hi with rfl | hil
    · have hlater := storeWords_other hrest (k := k) fun j hj => by
        rw [hw, hw]
        exact hk j (List.mem_cons_of_mem i hj) (hlt j hj)
      obtain ⟨hlo, hhi, -⟩ := writeWord_ramByte hu k
      exact ⟨fun hb => hlater.trans (hlo hb), fun hb => hlater.trans (hhi hb)⟩
    · have hmmu : u.mmuWord i = s.mmuWord i := by rw [State.mmuWord, hf.off hM, State.mmuWord]
      have hrec := ih htail (by rw [hf.ps, hM]) hrest hil fun j hj hij => by
        rw [hw, hw]
        exact hk j (List.mem_cons_of_mem _ hj) hij
      rwa [hw, hw, hmmu] at hrec

theorem storeMmu_of_not_M {s : State} (hM : s.ps.M = false) (a : Word) : ∃ t, storeMmu a s = .ok () t := by
  rw [storeMmu_eq]
  generalize List.finRange 32 = l
  induction l generalizing s with
  | nil => exact ⟨s, rfl⟩
  | cons i l ih =>
    obtain ⟨p, hp⟩ := translatePair_of_not_M hM (a + BitVec.ofNat 16 (2 * i.val)) .write
    obtain ⟨u, hu⟩ := writeWord_of_ok hp (s.mmuWord i)
    obtain ⟨t, ht⟩ := ih (s := u) (by rw [(writeWord_frame hu).ps, hM])
    exact ⟨t, by rw [storeWords, forEach, hu]; exact ht⟩

/-- The frame of the 32 stores, by the addresses of the array. -/
theorem storeMmu_unchangedBut {a : Word} {s t : State} (h : storeMmu a s = .ok () t) :
    UnchangedBut (fun _ => True) s a 64 t := by
  obtain ⟨hf, hm⟩ := storeWords_frame h
  refine ⟨fun r _ => hf.reg r, hf.status, hm, fun k hk => storeWords_other h fun i _ => ⟨hk _ (by omega), ?_⟩, hf.romByte⟩
  have hhigh := hk (2 * i.val + 1) (by omega)
  rwa [← stack_above] at hhigh

/-- Settles O44: the operand, then the words in rising order. -/
theorem mmlStoresMmuWords : Obligations.MmlStoresMmuWords := by
  intro m s t a hS h
  obtain ⟨hb, hu⟩ := readOperand_frame h
  have hx : exec (.mml m) s = finish s ((storeMmu a t).bind fun _ u => .ok () (u.setPc (addrOf s + m.len))) := by
    change finish s (requirePriv s ((readOperand m s).bind fun a t =>
      (storeMmu a t).bind fun _ u => .ok () (u.setPc (npc (operandLength m) s)))) = _
    rw [requirePriv_of_S hS, h, npc_operandLength, Res.bind_ok]
  refine ⟨fun u hl => ?_, fun hM => storeMmu_of_not_M (by rw [hu.status.ps, hM]) a, fun c u hl => ?_⟩
  · obtain ⟨hf, -⟩ := storeWords_frame hl
    have hbut := (hu.then_but (storeMmu_unchangedBut hl)).mono fun _ h => ⟨h, trivial⟩
    rw [hl] at hx
    refine ⟨u.setPc (addrOf s + m.len), hx, rfl, hf.fl.trans (readOperand_fl_pc h).1,
      ⟨hf.ssp.trans hu.sps.ssp, hf.usp.trans hu.sps.usp⟩, fun k hk => (hf.reg k).trans (hb k hk), hbut.setPc _,
      fun i k hM hlater => ?_⟩
    have hvalue := storeWords_value (List.pairwise_lt_finRange 32) (by rw [hu.status.ps, hM]) hl (List.mem_finRange i) (k := k)
      fun j _ hij => by
        rw [hu.writesByte, hu.writesByte]
        have hval : i.val < j.val := hij
        refine ⟨hlater _ (by omega) (by omega), ?_⟩
        have hhigh := hlater (2 * j.val + 1) (by omega) (by omega)
        rwa [← stack_above] at hhigh
    rw [hu.writesByte, hu.writesByte, hu.mmu] at hvalue
    rw [← stack_above]
    exact hvalue
  · refine takes_of_finish (by rw [hx, hl, Res.bind_raise]) (bankFault_ne_swi ?_)
    exact forEach_raise (P := fun c => ∃ a u w e, c = .bankFault a u w e) (fun _ _ _ _ h => writeWord_bankFault h) hl

end Sys2Proof.Machine
end

section
/-! PROOFS. Pops with writes of registers and flags between them: JCX (spec/47_jump_call.md R286) and POP of general registers
(spec/48_stack.md R304). A pop neither reads nor writes a register or a flag, so that those writes can be made last. -/

namespace Sys2Proof.Machine

-- Pops do not depend on registers and flags.

/-- The state `t` with the registers and the flags of `u`. -/
def overlay (u t : State) : State := { t with regs := u.regs, fl := u.fl }

theorem overlay_self (s : State) : overlay s s = s := rfl
theorem overlay_reg (u t : State) (r : Reg) : (overlay u t).reg r = u.reg r := rfl
theorem overlay_setReg (u t : State) (r : Reg) (v : Word) : (overlay u t).setReg r v = overlay (u.setReg r v) t := rfl
theorem overlay_setFl (u t : State) (f : Flags) : (overlay u t).setFl f = overlay (u.setFl f) t := rfl

theorem overlay_setSp (u t : State) (v : Word) : (overlay u t).setSp v = overlay u (t.setSp v) := by
  change (if t.ps.S then _ else _) = overlay u (if t.ps.S then _ else _)
  split <;> rfl

theorem overlay_writePs (p : Status) (u t : State) : writePs p (overlay u t) = overlay u (writePs p t) := by
  change (if p.M = t.ps.M then _ else _) = overlay u (if p.M = t.ps.M then _ else _)
  split <;> rfl

theorem physRead_overlay (p : Loc) (u t : State) :
    physRead p (overlay u t) = ((physRead p t).1, overlay u (physRead p t).2) := by
  cases p <;> rfl

theorem readPair_overlay {k : Access} {a : Word} {s t : State} {b : Byte × Byte} (u : State)
    (h : readPair k a s = .ok b t) : readPair k a (overlay u s) = .ok b (overlay u t) := by
  have hp : translatePair (overlay u s) a k = translatePair s a k := rfl
  unfold readPair at h ⊢
  rw [hp]
  split at h
  · cases h
  · cases h
    simp only [physRead_overlay]

theorem popPair_overlay {s t : State} {b : Byte × Byte} (u : State) (h : popPair s = .ok b t) :
    popPair (overlay u s) = .ok b (overlay u t) := by
  obtain ⟨_, w, hw, h⟩ := Res.bind_eq_ok.1 h
  cases h
  change (readPair .read s.sp (overlay u s)).bind _ = _
  rw [readPair_overlay u hw, ← overlay_setSp]
  rfl

theorem pop_overlay {s t : State} {v : Word} (u : State) (h : pop s = .ok v t) :
    pop (overlay u s) = .ok v (overlay u t) := by
  obtain ⟨b, w, hw, h⟩ := Res.bind_eq_ok.1 ((pop_eq_popPair s).symm.trans h)
  cases h
  rw [pop_eq_popPair, popPair_overlay u hw]
  rfl

-- Several registers popped.

/-- The registers of a list written with the words of a list, one after the other. -/
def setRegs : List Reg → List Word → State → State
  | r :: rs, v :: vs, s => setRegs rs vs (s.setReg r v)
  | _, _, s => s

theorem setRegs_fl (rs : List Reg) (vs : List Word) (s : State) : (setRegs rs vs s).fl = s.fl := by
  induction rs generalizing vs s with
  | nil => rfl
  | cons r rs ih =>
    cases vs with
    | nil => rfl
    | cons v vs => exact ih vs _

theorem setRegs_reg_of_notMem {rs : List Reg} {r : Reg} (h : r ∉ rs) (vs : List Word) (s : State) :
    (setRegs rs vs s).reg r = s.reg r := by
  induction rs generalizing vs s with
  | nil => rfl
  | cons q rs ih =>
    rw [List.mem_cons, not_or] at h
    obtain ⟨hq, hrs⟩ := h
    cases vs with
    | nil => rfl
    | cons v vs => exact (ih hrs vs _).trans (setReg_reg_of_ne s v hq)

/-- A register of the list holds the word at its place. -/
theorem setRegs_reg {rs : List Reg} (hrs : rs.Nodup) {vs : List Word} (hlen : vs.length = rs.length) {i : Nat} {r : Reg}
    (h : rs[i]? = some r) (s : State) : vs[i]? = some ((setRegs rs vs s).reg r) := by
  induction rs generalizing vs s i with
  | nil => cases h
  | cons q rs ih =>
    obtain ⟨hq, hrs⟩ := List.nodup_cons.1 hrs
    cases vs with
    | nil => cases hlen
    | cons v vs =>
      cases i with
      | zero =>
        cases h
        exact congrArg some ((setRegs_reg_of_notMem hq vs _).trans (setReg_reg_self ..)).symm
      | succ i => exact ih hrs (Nat.succ.inj hlen) h _

theorem popReg_overlay {s t u : State} {v : Word} (r : Reg) (h : pop s = .ok v t) :
    popReg r (overlay u s) = .ok () (overlay (u.setReg r v) t) := by
  rw [popReg, pop_overlay u h]
  rfl

/-- Pops into the registers of a list are the pops of as many words, and then the writes. -/
theorem forEach_popReg {rs : List Reg} {ws : List Word} {s t : State} (u : State) (h : popWords rs.length s = .ok ws t) :
    forEach popReg rs (overlay u s) = .ok () (overlay (setRegs rs ws u) t) := by
  induction rs generalizing ws s u with
  | nil => cases h; rfl
  | cons r rs ih =>
    obtain ⟨v, w, l, hv, hl, rfl⟩ := popWords_cons h
    rw [forEach, popReg_overlay r hv, Res.bind_ok, ih _ hl]
    rfl

theorem popWords_append {m n : Nat} {ws : List Word} {s t : State} (h : popWords (m + n) s = .ok ws t) :
    ∃ l u l', popWords m s = .ok l u ∧ popWords n u = .ok l' t ∧ ws = l ++ l' := by
  induction m generalizing s ws with
  | zero => exact ⟨[], s, ws, rfl, by rwa [Nat.zero_add] at h, rfl⟩
  | succ m ih =>
    rw [Nat.succ_add] at h
    obtain ⟨v, w, l0, hv, hl0, rfl⟩ := popWords_cons h
    obtain ⟨l, u, l', hl, hl', rfl⟩ := ih hl0
    exact ⟨v :: l, u, l', by simp only [popWords, hv, hl, Res.bind_ok], hl', rfl⟩

theorem popWords_three {l : List Word} {s t : State} (h : popWords 3 s = .ok l t) :
    ∃ f p q s1 s2, l = [f, p, q] ∧ pop s = .ok f s1 ∧ pop s1 = .ok p s2 ∧ pop s2 = .ok q t := by
  obtain ⟨f, s1, l1, hf, hl1, rfl⟩ := popWords_cons h
  obtain ⟨p, q, rfl⟩ := List.length_eq_two.1 (popWords_ok hl1).2.2
  obtain ⟨s2, hp, hq⟩ := popWords_two hl1
  exact ⟨f, p, q, s1, s2, rfl, hf, hp, hq⟩

-- JCX.

/-- R7 to R0, FL, PC and PS popped, with PC and PS written last. -/
theorem jcx_pops {s t : State} {l : List Word} {f p q : Word} {u s1 s2 : State} (hl : popWords 8 s = .ok l u)
    (hf : pop u = .ok f s1) (hp : pop s1 = .ok p s2) (hq : pop s2 = .ok q t) :
    ((popAll s).bind fun _ t =>
      (popPair t).bind fun f t =>
      (pop (t.setFl (flagsOf f.2))).bind fun p t =>
      (popPair t).bind fun q t => .ok () ((writePs (statusOf q.2) t).setPc p)) =
    .ok () ((overlay ((setRegs [7, 6, 5, 4, 3, 2, 1, 0] l s).setFl (flagsOf (hiByte f)))
      (writePs (statusOf (hiByte q)) t)).setPc p) := by
  have hall : popAll s = .ok () (overlay (setRegs [7, 6, 5, 4, 3, 2, 1, 0] l s) u) :=
    forEach_popReg (rs := [7, 6, 5, 4, 3, 2, 1, 0]) s hl
  rw [hall, Res.bind_ok, popPair_of_pop (pop_overlay _ hf), Res.bind_ok, overlay_setFl, pop_overlay _ hp, Res.bind_ok,
    popPair_of_pop (pop_overlay _ hq), Res.bind_ok, overlay_writePs]

theorem loadMmu_kept {a : Word} {s t : State} (h : loadMmu a s = .ok () t) :
    t.ps = s.ps ∧ (∀ k, t.bank k = s.bank k) ∧ t.ssp = s.ssp ∧ t.usp = s.usp ∧ SameRest s t := by
  have heq := (loadMmu_frame (congrArg Res.state h)).1
  change t = _ at heq
  rw [heq]
  exact ⟨rfl, fun _ => rfl, rfl, rfl, ⟨rfl, rfl, rfl, rfl, rfl, rfl, rfl, rfl, rfl, ⟨fun _ => rfl, fun _ => rfl⟩⟩⟩

theorem popAll_place : ∀ r : Reg, [7, 6, 5, 4, 3, 2, 1, 0][7 - r.val]? = some r := by decide

/-- Settles O33: the pops with their writes made last; with the MMU off no access fails, and the words are those of memory. -/
theorem jcxRestoresContext : Obligations.JcxRestoresContext := by
  refine ⟨fun s t1 t2 t3 a ws hS h1 h2 h3 => ?runs, fun s hS hM => ?completes⟩
  case runs =>
    obtain ⟨l, u, l', hl, hl', rfl⟩ := popWords_append (m := 8) (n := 3) h3
    obtain ⟨f, p, q, s1, s2, rfl, hf, hp, hq⟩ := popWords_three hl'
    have hlen : l.length = 8 := (popWords_ok hl).2.2
    have hx : exec .jcx s = .next ((overlay ((setRegs [7, 6, 5, 4, 3, 2, 1, 0] l t2).setFl (flagsOf (hiByte f)))
        (writePs (statusOf (hiByte q)) t3)).setPc p) := by
      change finish s (requirePriv s ((pop s).bind fun a t => (loadMmu a t).bind fun _ t => (popAll t).bind _)) = _
      rw [requirePriv_of_S hS, h1, Res.bind_ok, h2, Res.bind_ok, jcx_pops hl hf hp hq, finish_ok]
    obtain ⟨hpop1, hsp1⟩ := pop_onlyPop h1
    obtain ⟨hps2, hbank2, hssp2, husp2, hrest2⟩ := loadMmu_kept h2
    obtain ⟨hpop3, hsp3, -⟩ := popWords_ok h3
    have hS1 : t1.ps.S = true := by rw [hpop1.ps, hS]
    have hS2 : t2.ps.S = true := by rw [hps2, hS1]
    have hstacks := writePs_sameStacks (statusOf (hiByte q)) t3
    have hkept := hpop3.kept.trans (writePs_kept (statusOf (hiByte q)) t3)
    have hrest : SameRest s (writePs (statusOf (hiByte q)) t3) := (hpop1.kept.rest.trans hrest2).trans hkept.rest
    refine ⟨_, hx, fun r => ?reg, fun f' hf' => ?fl, ?pc, fun q' hq' => ?ps, ?map, ?ssp, ?usp, hkept.mmu,
      { hrest with memory := { hrest.memory with } }⟩
    case reg =>
      rw [List.getElem?_append_left (by omega)]
      exact setRegs_reg (by decide) hlen (popAll_place r) t2
    case fl =>
      rw [List.getElem?_append_right (by omega), hlen] at hf'
      cases hf'
      exact flagsOf_hiByte f
    case pc =>
      rw [List.getElem?_append_right (by omega), hlen]
      rfl
    case ps =>
      rw [List.getElem?_append_right (by omega), hlen] at hq'
      cases hq'
      exact (writePs_ps _ t3).trans (statusOf_hiByte q)
    case map =>
      exact (writePs_mapFollowsM _ t3).congr (hpop3.ps.trans (hps2.trans hpop1.ps)) fun k =>
        (hpop3.status.im k).trans ((hbank2 k).trans (hpop1.status.im k))
    case ssp =>
      rw [sp_of_S (by rw [hpop3.ps, hS2]), sp_of_S hS2, hssp2] at hsp3
      rw [sp_of_S hS1, sp_of_S hS] at hsp1
      exact hstacks.ssp.trans (hsp3.trans (by rw [hsp1]; exact stack_above s.ssp 2 22))
    case usp => exact hstacks.usp.trans ((hpop3.super hS2).trans (husp2.trans (hpop1.super hS)))
  case completes =>
    obtain ⟨p, hp⟩ := translatePair_of_not_M hM s.sp .read
    obtain ⟨a, t1, h1⟩ := pop_of_translate hp
    obtain ⟨hpop1, -⟩ := pop_onlyPop h1
    have hM1 : t1.ps.M = false := by rw [hpop1.ps, hM]
    obtain ⟨t2, h2⟩ := loadMmu_of_not_M hM1 a
    have hM2 : t2.ps.M = false := by rw [(loadMmu_kept h2).1, hM1]
    obtain ⟨ws, t3, h3⟩ := popWords_of_canPop (n := 11) (s := t2) fun i _ => translatePair_of_not_M hM2 _ _
    refine ⟨a, t1, t2, ws, t3, h1, h2, h3, fun i v hv => loadMmu_value hM1 h2 ?_⟩
    exact (HoldsWord.congr (fun x => hpop1.translate x .read) hpop1.memory).2 hv

-- A list of registers, some of which an instruction names.

theorem forEach_when {α : Type} (p : α → Bool) (f : α → State → Res Unit) (l : List α) (s : State) :
    forEach (fun a t => when (p a) (f a) t) l s = forEach f (l.filter p) s := by
  induction l generalizing s with
  | nil => rfl
  | cons a l ih =>
    cases h : p a with
    | true =>
      rw [List.filter_cons_of_pos h, forEach, forEach, when, if_pos h]
      congr
      funext _ t
      exact ih t
    | false =>
      rw [List.filter_cons_of_neg (by simp [h]), forEach, when, if_neg (by simp [h]), Res.bind_ok]
      exact ih s

/-- The place of an element in what is selected of a list is the number of the elements selected before it. -/
theorem getElem?_filter {α : Type} [DecidableEq α] {p : α → Bool} {l : List α} {a : α} (hl : l.Nodup) (ha : a ∈ l)
    (hp : p a = true) : (l.filter p)[((l.takeWhile (· ≠ a)).filter p).length]? = some a := by
  induction l with
  | nil => exact absurd ha List.not_mem_nil
  | cons b l ih =>
    obtain ⟨hb, hl⟩ := List.nodup_cons.1 hl
    by_cases hab : b = a
    · subst hab
      simp [hp]
    · have hal : a ∈ l := (List.mem_cons.1 ha).resolve_left (Ne.symm hab)
      have htake : (b :: l).takeWhile (· ≠ a) = b :: l.takeWhile (· ≠ a) := by simp [hab]
      rw [htake, List.filter_cons, List.filter_cons]
      split
      · exact ih hl hal
      · exact ih hl hal

/-- R7 to R0, from the register `n` up and named by the list, counted by their numbers. -/
theorem length_named (list : BitVec 8) (n : Nat) :
    ((List.range 8).filter fun j => decide (n ≤ j) && list.getLsbD j).length =
      (([7, 6, 5, 4, 3, 2, 1, 0] : List Reg).filter fun r => decide (n ≤ r.val) && list.getLsbD r.val).length := by
  have hrange : List.range 8 = (([7, 6, 5, 4, 3, 2, 1, 0] : List Reg).map Fin.val).reverse := rfl
  rw [hrange, List.filter_reverse, List.length_reverse, List.filter_map, List.length_map]
  rfl

theorem takeWhile_popAll : ∀ r : Reg, ([7, 6, 5, 4, 3, 2, 1, 0] : List Reg).takeWhile (· ≠ r) =
    ([7, 6, 5, 4, 3, 2, 1, 0] : List Reg).filter fun q => decide (r.val + 1 ≤ q.val) := by decide

theorem mem_popAll : ∀ r : Reg, r ∈ ([7, 6, 5, 4, 3, 2, 1, 0] : List Reg) := by decide

/-- Settles O35: the pops with their writes made last; a register's place in the list is the number of the registers above
it. -/
theorem popGeneralPopsList : Obligations.PopGeneralPopsList := by
  intro list s t ws popped h
  have hnamed (n : Nat) : popped n = _ := length_named list n
  have hzero : popped 0 = (([7, 6, 5, 4, 3, 2, 1, 0] : List Reg).filter fun r => list.getLsbD r.val).length := by
    rw [hnamed]
    simp only [Nat.zero_le, decide_true, Bool.true_and]
  rw [hzero] at h
  obtain ⟨hpop, hsp, hlen⟩ := popWords_ok h
  have hx : exec (.popGeneral list) s = .next (next 2 s (overlay (setRegs
      (([7, 6, 5, 4, 3, 2, 1, 0] : List Reg).filter fun r => list.getLsbD r.val) ws s) t)) := by
    change finish s ((forEach (fun r t => when (list.getLsbD r.val) (popReg r) t) [7, 6, 5, 4, 3, 2, 1, 0] s).bind _) = _
    rw [forEach_when (fun r : Reg => list.getLsbD r.val) popReg, ← overlay_self s, forEach_popReg s h]
    rfl
  have hs := hpop.status
  rw [hzero]
  refine ⟨_, hx, rfl, setRegs_fl .., hsp, hpop.super, hpop.user, fun r hr => ?_, fun r hr => ?_, { hs with }, hpop.mmu,
    { hpop.memory with }⟩
  · have hplace : popped (r.val + 1) = ((([7, 6, 5, 4, 3, 2, 1, 0] : List Reg).takeWhile (· ≠ r)).filter
        fun q => list.getLsbD q.val).length := by
      rw [hnamed, takeWhile_popAll, List.filter_filter]
      simp only [Bool.and_comm]
    rw [hplace]
    refine setRegs_reg (List.Nodup.filter _ (by decide)) hlen (getElem?_filter (by decide) (mem_popAll r) hr) s
  · exact setRegs_reg_of_notMem (fun hm => Bool.false_ne_true (hr.symm.trans (List.mem_filter.1 hm).2)) ws s

end Sys2Proof.Machine
end

section
/-! PROOFS. PSH (spec/48_stack.md R302, R303, R306, R308): general registers, and special registers, whose undefined low bits
are drawn between the pushes. A push neither reads nor counts draws, so that they can be made first. -/

namespace Sys2Proof.Machine

theorem Res.bind_assoc {α β γ : Type} (r : Res α) (f : α → State → Res β) (g : β → State → Res γ) :
    (r.bind f).bind g = r.bind fun a t => (f a t).bind g := by cases r <;> rfl

-- PSH of general registers.

/-- Registers pushed one after the other are their words pushed: a push changes no register. -/
theorem forEach_push (rs : List Reg) {s u : State} (h : ∀ r, s.reg r = u.reg r) :
    forEach (fun r t => push (t.reg r) t) rs s = pushWords (rs.map u.reg) s := by
  induction rs generalizing s with
  | nil => rfl
  | cons r rs ih =>
    rw [forEach, List.map_cons, pushWords, h r]
    cases ht : push (u.reg r) s with
    | raise c t => rfl
    | ok _ t => exact ih fun q => ((push_onlyPush ht).store.reg q).trans (h q)

theorem push_bankFault {v : Word} {s t : State} {c : Cause} (h : push v s = .raise c t) : ∃ a u w e, c = .bankFault a u w e :=
  translatePair_bankFault (pushPair_raise h).2

theorem pushWords_bankFault {ws : List Word} {s t : State} {c : Cause} (h : pushWords ws s = .raise c t) :
    ∃ a u w e, c = .bankFault a u w e := by
  induction ws generalizing s with
  | nil => cases h
  | cons v ws ih =>
    rcases Res.bind_eq_raise.1 h with h | ⟨_, u, _, h⟩
    · exact push_bankFault h
    · exact ih h

/-- Settles O34: the pushes of the words of the registers. -/
theorem pshGeneralPushesList : Obligations.PshGeneralPushesList := by
  intro list s ws n
  have hx : exec (.pshGeneral list) s = finish s ((pushWords ws s).bind fun _ t => .ok () (t.setPc (addrOf s + 2))) := by
    change finish s ((forEach (fun r t => when (list.getLsbD r.val) (fun t => push (t.reg r) t) t)
      [0, 1, 2, 3, 4, 5, 6, 7] s).bind _) = _
    rw [forEach_when (fun r : Reg => list.getLsbD r.val) (fun r t => push (t.reg r) t), forEach_push _ fun _ => rfl]
    rfl
  refine ⟨fun hcan => ?_, fun c t h => ?_⟩
  · obtain ⟨t, ht⟩ := pushWords_of_canPush hcan
    obtain ⟨hpush, hsp, -, -⟩ := pushWords_ok ht
    refine ⟨t, ht, by rw [hx, ht]; rfl, hsp, hpush.store.fl, pushWords_unchangedBut ht⟩
  · exact takes_of_finish (by rw [hx, h, Res.bind_raise]) (bankFault_ne_swi (pushWords_bankFault h))

-- Pushes do not depend on draws.

/-- The state `s` after `n` draws in all. -/
def withFree (n : Nat) (s : State) : State := { s with free := n }

theorem physWrite_withFree (p : Loc) (b : Byte) (n : Nat) (s : State) :
    physWrite p b (withFree n s) = withFree n (physWrite p b s) := by cases p <;> rfl

theorem setAccessed_withFree (a : Word) (n : Nat) (s : State) :
    setAccessed a (withFree n s) = withFree n (setAccessed a s) := by
  change (if s.ps.M then _ else _) = withFree n (if s.ps.M then _ else _)
  split <;> rfl

theorem setSp_withFree (v : Word) (n : Nat) (s : State) : (withFree n s).setSp v = withFree n (s.setSp v) := by
  change (if s.ps.S then _ else _) = withFree n (if s.ps.S then _ else _)
  split <;> rfl

theorem push_withFree {v : Word} {s t : State} (n : Nat) (h : push v s = .ok () t) :
    push v (withFree n s) = .ok () (withFree n t) := by
  obtain ⟨u, hu, rfl, -⟩ := pushPair_ok h
  obtain ⟨p, hp, rfl, -⟩ := writePair_ok hu
  have hp' : translatePair (withFree n s) ((withFree n s).sp - 2) .write = .ok p := hp
  rw [push, pushPair, writePair, hp']
  simp only [Res.bind_ok, setAccessed_withFree, physWrite_withFree, setSp_withFree]
  rfl

theorem when_push_withFree {b : Bool} {v : Word} {s t : State} (n : Nat)
    (h : pushWords (if b then [v] else []) s = .ok () t) : when b (push v) (withFree n s) = .ok () (withFree n t) := by
  cases b with
  | false => cases h; rfl
  | true =>
    obtain ⟨_, u, hu, h⟩ := Res.bind_eq_ok.1 h
    cases h
    exact push_withFree n hu

theorem pushWords_append {l l' : List Word} {s t : State} (h : pushWords (l ++ l') s = .ok () t) :
    ∃ u, pushWords l s = .ok () u ∧ pushWords l' u = .ok () t := by
  induction l generalizing s with
  | nil => exact ⟨s, rfl, h⟩
  | cons v l ih =>
    obtain ⟨_, w, hw, h⟩ := Res.bind_eq_ok.1 h
    obtain ⟨u, hu, h⟩ := ih h
    exact ⟨u, by simp only [pushWords, hw, Res.bind_ok, hu], h⟩

-- The undefined low bits of PS and FL.

/-- The draws made by reading PS[7:0], if it is read. -/
def drawsPs (b : Bool) (s : State) : Nat := if b then (readPsLow s).2.free else s.free

theorem readPsLow_withFree {s t : State} (h : t.psClean = s.psClean) :
    readPsLow (withFree s.free t) = ((readPsLow s).1, withFree (readPsLow s).2.free t) := by
  cases hc : s.psClean with
  | true => simp [readPsLow, withFree, h, hc]
  | false => simp [readPsLow, withFree, h, hc, State.draw]

theorem when_pushPs_withFree {b : Bool} {s t u : State} (hps : t.ps = s.ps) (hc : t.psClean = s.psClean)
    (h : pushWords (if b then [wordOf (readPsLow s).1 (statusByte s.ps)] else []) t = .ok () u) :
    when b pushPs (withFree s.free t) = .ok () (withFree (drawsPs b s) u) := by
  cases b with
  | false => cases h; rfl
  | true =>
    obtain ⟨_, w, hw, h⟩ := Res.bind_eq_ok.1 h
    cases h
    change pushPair (readPsLow (withFree s.free t)).1 (statusByte t.ps) (readPsLow (withFree s.free t)).2 = _
    rw [readPsLow_withFree hc, pushPair_eq_push, hps]
    exact push_withFree _ hw

theorem when_pushFl_withFree {b : Bool} {n : Nat} {s t u : State} (hfl : t.fl = s.fl)
    (h : pushWords (if b then [flagsWord s.fl ((Config.freeWord n).extractLsb' 0 12)] else []) t = .ok () u) :
    ∃ m, when b pushFl (withFree n t) = .ok () (withFree m u) := by
  cases b with
  | false => cases h; exact ⟨n, rfl⟩
  | true =>
    obtain ⟨_, w, hw, h⟩ := Res.bind_eq_ok.1 h
    cases h
    refine ⟨n + 1, ?_⟩
    change push (flagsWord t.fl _) (withFree (n + 1) t) = _
    rw [hfl]
    exact push_withFree _ hw

-- PSH of special registers.

/-- The transfers of a PSH of special registers (R303). -/
def specialPushes (list : BitVec 5) (s : State) : Res Unit :=
  (when (list.getLsbD 0) (push s.sp) s).bind fun _ t =>
  (when (list.getLsbD 1) (push s.usp) t).bind fun _ t =>
  (when (list.getLsbD 2 && s.ps.S) pushPs t).bind fun _ t =>
  (when (list.getLsbD 3) (push (addrOf s + 2)) t).bind fun _ t =>
  when (list.getLsbD 4) pushFl t

theorem exec_pshSpecial (list : BitVec 5) (s : State) : exec (.pshSpecial list) s =
    finish s ((specialPushes list s).bind fun _ t => endPs (list.getLsbD 2) s t (addrOf s + 2)) := by
  simp only [specialPushes, Res.bind_assoc]
  rfl

/-- The words of a PSH of special registers, with `pl` for PS[7:0] and `f` for FL[11:0]. -/
def specialWords (list : BitVec 5) (s : State) (pl : Byte) (f : BitVec 12) : List Word :=
  (if list.getLsbD 0 then [s.sp] else []) ++ (if list.getLsbD 1 then [s.usp] else []) ++
  (if list.getLsbD 2 && s.ps.S then [wordOf pl (statusByte s.ps)] else []) ++ (if list.getLsbD 3 then [addrOf s + 2] else []) ++
  (if list.getLsbD 4 then [flagsWord s.fl f] else [])

theorem length_ite_singleton (b : Bool) (v : Word) : (if b then [v] else []).length = b.toNat := by cases b <;> rfl

theorem specialWords_length (list : BitVec 5) (s : State) (pl : Byte) (f : BitVec 12) :
    (specialWords list s pl f).length = (list.getLsbD 0).toNat + (list.getLsbD 1).toNat +
      (list.getLsbD 2 && s.ps.S).toNat + (list.getLsbD 3).toNat + (list.getLsbD 4).toNat := by
  simp only [specialWords, List.length_append, length_ite_singleton]

/-- The transfers are the pushes of their words, with the low bits that are drawn. -/
theorem specialPushes_of_pushWords {list : BitVec 5} {s t : State} {f : BitVec 12}
    (hf : f = (Config.freeWord (drawsPs (list.getLsbD 2 && s.ps.S) s)).extractLsb' 0 12)
    (h : pushWords (specialWords list s (readPsLow s).1 f) s = .ok () t) :
    ∃ n, specialPushes list s = .ok () (withFree n t) := by
  subst hf
  obtain ⟨t4, h, h5⟩ := pushWords_append h
  obtain ⟨t3, h, h4⟩ := pushWords_append h
  obtain ⟨t2, h, h3⟩ := pushWords_append h
  obtain ⟨t1, h1, h2⟩ := pushWords_append h
  have hp2 : OnlyPush s t2 := (pushWords_ok h1).1.trans (pushWords_ok h2).1
  have hp4 : OnlyPush s t4 := (hp2.trans (pushWords_ok h3).1).trans (pushWords_ok h4).1
  have hfl : t4.fl = s.fl := hp4.store.fl
  obtain ⟨n, h5⟩ := when_pushFl_withFree hfl h5
  refine ⟨n, ?_⟩
  have h1 : when (list.getLsbD 0) (push s.sp) s = .ok () (withFree s.free t1) := when_push_withFree s.free h1
  rw [specialPushes, h1, Res.bind_ok, when_push_withFree s.free h2, Res.bind_ok,
    when_pushPs_withFree hp2.ps hp2.status.psClean h3, Res.bind_ok, when_push_withFree _ h4, Res.bind_ok, h5]

theorem specialPushes_of_canPush {list : BitVec 5} {s : State} {n : Nat} (hn : ∀ pl f, (specialWords list s pl f).length = n)
    (h : CanPush n s) : ∃ f t m, pushWords (specialWords list s (readPsLow s).1 f) s = .ok () t ∧
      specialPushes list s = .ok () (withFree m t) := by
  rw [← hn (readPsLow s).1 ((Config.freeWord (drawsPs (list.getLsbD 2 && s.ps.S) s)).extractLsb' 0 12)] at h
  obtain ⟨t, ht⟩ := pushWords_of_canPush h
  obtain ⟨m, hm⟩ := specialPushes_of_pushWords rfl ht
  exact ⟨_, t, m, ht, hm⟩

/-- Settles O36: the transfers as pushes of words. -/
theorem pshSpecialPushesList : Obligations.PshSpecialPushesList := by
  intro list s hpriv words n hcan
  have hb : (list.getLsbD 2 && s.ps.S) = list.getLsbD 2 := by
    cases h : list.getLsbD 2 with
    | false => rfl
    | true => rw [hpriv h]; rfl
  have hwords (pl : Byte) (f : BitVec 12) : specialWords list s pl f = words pl f := by
    rw [specialWords, hb]
    rfl
  have hlen (pl : Byte) (f : BitVec 12) : (specialWords list s pl f).length = n := by
    rw [specialWords_length, ← specialWords_length list s 0 0, hwords]
  obtain ⟨f, t, m, ht, hm⟩ := specialPushes_of_canPush hlen hcan
  have hx : exec (.pshSpecial list) s = .next ((withFree m t).setPc (addrOf s + 2)) := by
    have hend : (list.getLsbD 2 && !s.ps.S) = false := by
      cases h : list.getLsbD 2 with
      | false => rfl
      | true => rw [hpriv h]; rfl
    rw [exec_pshSpecial, hm, Res.bind_ok, endPs, hend]
    rfl
  obtain ⟨hpush, hsp, -, -⟩ := pushWords_ok ht
  have hbut := pushWords_unchangedBut ht
  rw [hlen] at hsp hbut
  rw [hwords] at ht
  have hbut' : UnchangedBut (fun _ => True) s (s.sp - BitVec.ofNat 16 (2 * n)) (2 * n) (withFree m t) :=
    ⟨hbut.regs, { hbut.status with }, hbut.mmu, hbut.memory⟩
  exact ⟨_, f, t, _, readPsLow_of_clean, ht, hx, rfl, hsp, hpush.store.fl, hbut'.setPc _⟩

end Sys2Proof.Machine
end

section
/-! PROOFS. POP of special registers and RTS (spec/48_stack.md R305, spec/47_jump_call.md R283), and PSH and POP with PS in the
list in User mode (spec/48_stack.md R309). -/

namespace Sys2Proof.Machine

-- One transfer that the list may select, with flags written before.

theorem popIf_onlyPop {b : Bool} {v : Word} {s t : State} (h : popIf b s = .ok v t) : OnlyPop s t := by
  cases b with
  | false => cases h; exact OnlyPop.refl _
  | true => exact (pop_onlyPop h).1

theorem when_popFl_overlay {b : Bool} {f : Word} {s t : State} (u : State) (h : popIf b s = .ok f t) :
    when b popFl (overlay u s) = .ok () (overlay (if b then u.setFl (flagsOf (hiByte f)) else u) t) := by
  cases b with
  | false => cases h; rfl
  | true =>
    change (popPair (overlay u s)).bind _ = _
    rw [popPair_of_pop (pop_overlay u h)]
    rfl

theorem popPc_overlay {b : Bool} {c d : Word} {s t : State} (u : State) (h : popIf b s = .ok c t) :
    (if b then pop (overlay u s) else .ok d (overlay u s)) = .ok (if b then c else d) (overlay u t) := by
  cases b with
  | false => cases h; rfl
  | true => exact pop_overlay u h

theorem when_popPs_overlay {b : Bool} {q : Word} {s t : State} (u : State) (h : popIf b s = .ok q t) :
    when b popPs (overlay u s) = .ok () (overlay u (if b then writePs (statusOf (hiByte q)) t else t)) := by
  cases b with
  | false => cases h; rfl
  | true =>
    change (popPair (overlay u s)).bind _ = _
    rw [popPair_of_pop (pop_overlay u h), Res.bind_ok, overlay_writePs]
    rfl

theorem when_popUsp_overlay {b : Bool} {v : Word} {s t : State} (u : State) (h : popIf b s = .ok v t) :
    when b popUsp (overlay u s) = .ok () (overlay u (if b then t.setUsp v else t)) := by
  cases b with
  | false => cases h; rfl
  | true =>
    change (pop (overlay u s)).bind _ = _
    rw [pop_overlay u h]
    rfl

theorem when_popSp_overlay {b : Bool} {v : Word} {s t : State} (u : State) (h : popIf b s = .ok v t) :
    when b popSp (overlay u s) = .ok () (overlay u (if b then t.setSp v else t)) := by
  cases b with
  | false => cases h; rfl
  | true =>
    change (pop (overlay u s)).bind _ = _
    rw [pop_overlay u h, Res.bind_ok, overlay_setSp]
    rfl

-- The transfers of POP (R305).

/-- The transfers of a POP of special registers, with the word popped as PC, or the address of the next instruction. -/
def specialPops (list : BitVec 5) (s : State) : Res Word :=
  (when (list.getLsbD 4) popFl s).bind fun _ t =>
  (if list.getLsbD 3 then pop t else .ok (addrOf s + 2) t).bind fun p t =>
  (when (list.getLsbD 2 && s.ps.S) popPs t).bind fun _ t =>
  (when (list.getLsbD 1) popUsp t).bind fun _ t =>
  (when (list.getLsbD 0) popSp t).bind fun _ t => .ok p t

theorem exec_popSpecial (list : BitVec 5) (s : State) : exec (.popSpecial list) s =
    finish s ((specialPops list s).bind fun p t => endPs (list.getLsbD 2) s t p) := by
  simp only [specialPops, Res.bind_assoc]
  rfl

/-- The registers and the flags a POP leaves. -/
def poppedFl (list : BitVec 5) (f : Word) (s : State) : State :=
  if list.getLsbD 4 then s.setFl (flagsOf (hiByte f)) else s

theorem poppedFl_reg (list : BitVec 5) (f : Word) (s : State) (r : Reg) : (poppedFl list f s).reg r = s.reg r := by
  unfold poppedFl
  split <;> rfl

theorem specialPops_of_pops {list : BitVec 5} {s t : State} {f c q us v : Word} (h : PopsSpecial list s f c q us v t) :
    specialPops list s = .ok (if list.getLsbD 3 then c else addrOf s + 2) (overlay (poppedFl list f s) t) := by
  obtain ⟨s1, s2, s3, s4, s5, hf, hc, hq, hus, hv, rfl⟩ := h
  have hf : when (list.getLsbD 4) popFl s = .ok () (overlay (poppedFl list f s) s1) := when_popFl_overlay s hf
  rw [specialPops, hf, Res.bind_ok, popPc_overlay _ hc, Res.bind_ok, when_popPs_overlay _ hq, Res.bind_ok,
    when_popUsp_overlay _ hus, Res.bind_ok, when_popSp_overlay _ hv, Res.bind_ok]

-- What the transfers leave.

theorem setSp_kept (v : Word) (s : State) : KeptByPops s (s.setSp v) := by
  unfold State.setSp
  split
  all_goals
    exact ⟨rfl, rfl, fun _ => rfl, fun _ => rfl, ⟨rfl, rfl, rfl, rfl, rfl, rfl, rfl, rfl, rfl, ⟨fun _ => rfl, fun _ => rfl⟩⟩⟩

theorem setUsp_kept (v : Word) (s : State) : KeptByPops s (s.setUsp v) :=
  ⟨rfl, rfl, fun _ => rfl, fun _ => rfl, ⟨rfl, rfl, rfl, rfl, rfl, rfl, rfl, rfl, rfl, ⟨fun _ => rfl, fun _ => rfl⟩⟩⟩

/-- PS and the bank map are the same. -/
def SameMode (s t : State) : Prop := t.ps = s.ps ∧ ∀ k, t.bank k = s.bank k

theorem SameMode.trans {s t u : State} (h : SameMode s t) (g : SameMode t u) : SameMode s u :=
  ⟨g.1.trans h.1, fun k => (g.2 k).trans (h.2 k)⟩

theorem OnlyPop.mode {s t : State} (h : OnlyPop s t) : SameMode s t := ⟨h.ps, h.status.im⟩

theorem SameMode.mapFollowsM {s t : State} (h : SameMode s t) : MapFollowsM s t := fun k => by
  rw [h.1, if_pos rfl, h.2]

theorem MapFollowsM.of_mode {s t u v : State} (h : SameMode s t) (g : MapFollowsM t u) (k : SameMode u v) :
    MapFollowsM s v := fun j => by
  rw [k.2 j, g j, k.1, h.1, h.2]

/-- The frame of the pops of USP and of SP, with their writes. -/
theorem popStacks_frame {b0 b1 : Bool} {s t u : State} {us v : Word} (hus : popIf b1 s = .ok us t)
    (hv : popIf b0 (if b1 then t.setUsp us else t) = .ok v u) :
    KeptByPops s (if b0 then u.setSp v else u) ∧ SameMode s (if b0 then u.setSp v else u) ∧
      (b0 = true → (if b0 then u.setSp v else u).sp = v) ∧
      (b1 = true → s.ps.S = true → (if b0 then u.setSp v else u).usp = us) := by
  have h1 := popIf_onlyPop hus
  have h2 := popIf_onlyPop hv
  have hkept1 : KeptByPops t (if b1 then t.setUsp us else t) := by
    cases b1
    · exact KeptByPops.refl t
    · exact setUsp_kept us t
  have hmode1 : SameMode t (if b1 then t.setUsp us else t) := by cases b1 <;> exact ⟨rfl, fun _ => rfl⟩
  have hkept2 : KeptByPops u (if b0 then u.setSp v else u) := by
    cases b0
    · exact KeptByPops.refl u
    · exact setSp_kept v u
  have hmode2 : SameMode u (if b0 then u.setSp v else u) := by
    cases b0
    · exact ⟨rfl, fun _ => rfl⟩
    · exact ⟨by simp, fun _ => by simp [State.bank]⟩
  have hmode := (h1.mode.trans hmode1).trans h2.mode
  refine ⟨((h1.kept.trans hkept1).trans h2.kept).trans hkept2, hmode.trans hmode2, fun hb => ?_, fun hb hS => ?_⟩
  · subst hb
    cases hS : u.ps.S <;> simp [State.setSp, State.sp, State.setSsp, State.setUsp, hS]
  · subst hb
    have hSu : u.ps.S = true := by rw [hmode.1, hS]
    have husp : u.usp = us := h2.super (by rw [hmode1.1, h1.ps, hS])
    cases b0
    · exact husp
    · rw [if_pos rfl, State.setSp, if_pos hSu]
      exact husp

/-- What the transfers of a POP of special registers leave, but for FL and PC, which are written last. -/
theorem popsSpecial_frame {list : BitVec 5} {s t : State} {f c q us v : Word} (h : PopsSpecial list s f c q us v t) :
    KeptByPops s t ∧ MapFollowsM s t ∧ (list.getLsbD 0 = true → t.sp = v) ∧
      (list.getLsbD 1 = true → t.ps.S = true → t.usp = us) ∧
      t.ps = if list.getLsbD 2 && s.ps.S then statusOf (hiByte q) else s.ps := by
  obtain ⟨s1, s2, s3, s4, s5, hf, hc, hq, hus, hv, rfl⟩ := h
  have h3 := ((popIf_onlyPop hf).trans (popIf_onlyPop hc)).trans (popIf_onlyPop hq)
  obtain ⟨hkept, hmode, hsp, husp⟩ := popStacks_frame hus hv
  rw [hmode.1]
  generalize (list.getLsbD 2 && s.ps.S) = b at *
  cases b with
  | false => exact ⟨h3.kept.trans hkept, (h3.mode.trans hmode).mapFollowsM, hsp, husp, h3.ps⟩
  | true =>
    exact ⟨h3.kept.trans ((writePs_kept _ s3).trans hkept),
      MapFollowsM.of_mode h3.mode (writePs_mapFollowsM _ s3) hmode, hsp, husp, writePs_ps _ s3⟩

theorem exec_rts {s t : State} {v : Word} (h : pop s = .ok v t) : exec .rts s = .next (t.setPc v) := by
  change finish s ((pop s).bind _) = _
  rw [h]
  rfl

/-- RTS is the POP of PC alone (47_jump_call.md R283). -/
theorem exec_popSpecial_pc {s t : State} {v : Word} (h : pop s = .ok v t) :
    exec (.popSpecial 0b01000) s = .next (t.setPc v) := by
  have hp : PopsSpecial 0b01000 s 0 v 0 0 0 t := ⟨s, t, t, t, t, rfl, h, rfl, rfl, rfl, rfl⟩
  have ht : overlay (poppedFl 0b01000 0 s) t = t := by
    have hpop := (pop_onlyPop h).1
    rw [hpop.eq]
    rfl
  rw [exec_popSpecial, specialPops_of_pops hp, ht]
  rfl

/-- Settles O37: the transfers, then FL and PC; RTS is the POP of PC alone. -/
theorem popSpecialPopsList : Obligations.PopSpecialPopsList := by
  refine ⟨fun list s t f c q us v hpriv h => ?pop, fun s t v h => ?rts⟩
  case pop =>
    have hb : (list.getLsbD 2 && s.ps.S) = list.getLsbD 2 ∧ (list.getLsbD 2 && !s.ps.S) = false := by
      cases hl : list.getLsbD 2 with
      | false => exact ⟨rfl, rfl⟩
      | true => rw [hpriv hl]; exact ⟨rfl, rfl⟩
    obtain ⟨hkept, hmap, hsp, husp, hps⟩ := popsSpecial_frame h
    rw [hb.1, statusOf_hiByte] at hps
    have hx : exec (.popSpecial list) s = .next
        ((overlay (poppedFl list f s) t).setPc (if list.getLsbD 3 then c else addrOf s + 2)) := by
      rw [exec_popSpecial, specialPops_of_pops h, Res.bind_ok, endPs, hb.2]
      rfl
    refine ⟨_, hx, ?_, rfl, hps, hmap, rfl, rfl, hsp, husp, poppedFl_reg list f s, hkept.mmu,
      { hkept.rest with memory := { hkept.rest.memory with } }⟩
    change (poppedFl list f s).fl = _
    rw [poppedFl]
    split
    · exact flagsOf_hiByte f
    · rfl
  case rts =>
    obtain ⟨hpop, hsp⟩ := pop_onlyPop h
    have hs := hpop.status
    exact ⟨_, exec_rts h, exec_popSpecial_pc h, rfl, hsp, hpop.super, hpop.user, hpop.fl, hpop.reg, { hs with }, hpop.mmu,
      { hpop.memory with }⟩

-- PS in the list in User mode.

theorem withoutPs_bits : ∀ l : BitVec 5, (l &&& 0b11011).getLsbD 0 = l.getLsbD 0 ∧ (l &&& 0b11011).getLsbD 1 = l.getLsbD 1 ∧
    (l &&& 0b11011).getLsbD 2 = false ∧ (l &&& 0b11011).getLsbD 3 = l.getLsbD 3 ∧
    (l &&& 0b11011).getLsbD 4 = l.getLsbD 4 := by decide

theorem withoutPs_count : ∀ l : BitVec 5, (l &&& 0b11011).cpop.toNat =
    (l.getLsbD 0).toNat + (l.getLsbD 1).toNat + (l.getLsbD 3).toNat + (l.getLsbD 4).toNat := by decide

theorem specialPushes_withoutPs {list : BitVec 5} {s : State} (hS : s.ps.S = false) :
    specialPushes (list &&& 0b11011) s = specialPushes list s := by
  obtain ⟨h0, h1, h2, h3, h4⟩ := withoutPs_bits list
  simp only [specialPushes, h0, h1, h2, h3, h4, hS, Bool.and_false]

theorem specialPops_withoutPs {list : BitVec 5} {s : State} (hS : s.ps.S = false) :
    specialPops (list &&& 0b11011) s = specialPops list s := by
  obtain ⟨h0, h1, h2, h3, h4⟩ := withoutPs_bits list
  simp only [specialPops, h0, h1, h2, h3, h4, hS, Bool.and_false]

/-- Settles O38: the transfers are those of the list without PS, and only their end differs. -/
theorem psInUserModeTrapsLast : Obligations.PsInUserModeTrapsLast := by
  intro list s hS hlist
  have h2 : (list &&& 0b11011).getLsbD 2 = false := (withoutPs_bits list).2.2.1
  have hend (t : State) (p : Word) : endPs false s t p = .ok () (t.setPc p) := rfl
  have htrap (t : State) (p : Word) : endPs true s t p = .raise .unprivOpcode t := by rw [endPs, hS]; rfl
  refine ⟨fun hcan => ?push, fun f c q us v t h => ?pop⟩
  case push =>
    have hlen (pl : Byte) (f : BitVec 12) : (specialWords list s pl f).length = (list &&& 0b11011).cpop.toNat := by
      rw [specialWords_length, withoutPs_count, hS, Bool.and_false]
      rfl
    obtain ⟨f, t, m, ht, hm⟩ := specialPushes_of_canPush hlen hcan
    refine ⟨withFree m t, ?_, (pushWords_ok ht).1.store.pc, takes_of_finish ?_ Cause.noConfusion⟩
    · rw [exec_pshSpecial, specialPushes_withoutPs hS, hm, Res.bind_ok, h2, hend]
      rfl
    · rw [exec_pshSpecial, hm, Res.bind_ok, hlist, htrap]
  case pop =>
    obtain ⟨hkept, -, -, -, hps⟩ := popsSpecial_frame h
    rw [hS, Bool.and_false] at hps
    refine ⟨overlay (poppedFl list f s) t, if list.getLsbD 3 then c else addrOf s + 2, ?_, hkept.pc, hps, takes_of_finish ?_ Cause.noConfusion⟩
    · rw [exec_popSpecial, specialPops_withoutPs hS, specialPops_of_pops h, Res.bind_ok, h2, hend]
      rfl
    · rw [exec_popSpecial, specialPops_of_pops h, Res.bind_ok, hlist, htrap]

end Sys2Proof.Machine
end

section
/-! PROOFS. HWQ $00 to $04, MIM and MIA (spec/49_processor.md R325 to R332). -/

namespace Sys2Proof.Machine

-- The answer in R0 to R3 (R325).

theorem setAnswer_reg (f : Fin 4 → Word) (s : State) (k : Fin 4) : (setAnswer f s).reg ⟨k.val, by omega⟩ = f k := by
  match k with
  | 0 | 1 | 2 | 3 => simp [setAnswer]

theorem Unchanged.setAnswer {s t : State} (h : Unchanged (fun _ => True) s t) (f : Fin 4 → Word) :
    Unchanged (fun r => 4 ≤ r.val) s (Machine.setAnswer f t) :=
  ((((h.setReg 0 _).setReg 1 _).setReg 2 _).setReg 3 _).mono fun r (hr : 4 ≤ r.val) =>
    ⟨Fin.ne_of_val_ne (by omega), Fin.ne_of_val_ne (by omega), Fin.ne_of_val_ne (by omega), Fin.ne_of_val_ne (by omega), trivial⟩

theorem onlyBus_logBus_draw (s : State) (e : BusEvent) : OnlyBus s (s.logBus e).draw := ⟨rfl, Nat.le_succ _⟩

/-- A device writes no byte beyond the internal RAM of the chip (R328). -/
theorem ramByte_deviceWrites (s : State) (l : List Host.Cell) {a : Nat} (ha : s.cfg.nram * 4096 ≤ a) :
    (s.setRam (deviceWrites s.cfg l s.ram)).ramByte a = s.ramByte a := by
  induction l generalizing s with
  | nil => rfl
  | cons c l ih =>
    by_cases hc : c.1 < s.cfg.nram * 4096
    · have hstep : deviceWrites s.cfg (c :: l) s.ram = deviceWrites s.cfg l (s.ram.write ramDefault c.1 c.2) := by
        simp only [deviceWrites, List.foldl_cons, hc, if_true]
      rw [hstep]
      refine (ih (s.setRam (s.ram.write ramDefault c.1 c.2)) ha).trans ?_
      rw [ramByte_setRam_write, if_neg (by omega)]
    · have hstep : deviceWrites s.cfg (c :: l) s.ram = deviceWrites s.cfg l s.ram := by
        simp only [deviceWrites, List.foldl_cons, hc, if_false]
      rw [hstep]
      exact ih s ha

/-- A HWQ operation that completes does so at the next instruction. -/
theorem finish_requirePriv_next {s : State} (hS : s.ps.S = true) (u : State) :
    finish s (requirePriv s (.ok () (next 2 s u))) = .next (u.setPc (addrOf s + 2)) := by
  rw [requirePriv_of_S hS]
  rfl

/-- Settles O39: each query completes with its answer; what a device writes lies in internal RAM. -/
theorem hwqBusAnswers : Obligations.HwqBusAnswers := by
  intro s hS
  refine ⟨⟨_, finish_requirePriv_next hS _, ?count, rfl, rfl, rfl, ?countFrame⟩,
    ⟨_, finish_requirePriv_next hS _, rfl, rfl, rfl, ?queryFrame⟩, ⟨_, finish_requirePriv_next hS _, rfl, rfl, rfl, ?messageFrame⟩⟩
  case count =>
    change (((s.logBus .count).draw.setReg 0 _).reg 0).toNat ≤ 256
    rw [setReg_reg_self]
    exact (Nat.mod_le _ _).trans (Nat.lt_succ_iff.1 (Config.busCount s.free s.bus).isLt)
  case countFrame =>
    exact ((((onlyBus_logBus_draw s _).unchanged fun _ => True).setReg 0 _).setPc _).mono fun _ h => ⟨h, trivial⟩
  case queryFrame => exact (((onlyBus_logBus_draw s _).unchanged fun _ => True).setAnswer _).setPc _
  case messageFrame =>
    let u : State := (s.logBus (.message (s.reg 0) (s.reg 1) (s.reg 2) (s.reg 3))).draw
    let v : State := u.setRam (deviceWrites s.cfg (Config.messageWrites s.free u.bus s.ram) s.ram)
    have h := ((OnlyBus.refl v).unchanged fun _ => True).setAnswer (Config.messageReply s.free u.bus s.ram)
    exact ⟨h.regs, { h.status with }, { h.sps with }, h.mmu, h.memory.rom,
      fun a ha => (h.memory.ram a).trans (ramByte_deviceWrites s _ ha)⟩

-- The clock (R329, R330).

theorem rtcWords_fields (t : RtcTime) (f : Fin 4 → Word) :
    (rtcWords t f 0).toNat / 256 = t.year.val ∧ (rtcWords t f 0).toNat % 16 = t.month.val ∧
    (rtcWords t f 1).toNat / 256 % 32 = t.day.val ∧ (rtcWords t f 1).toNat % 32 = t.hour.val ∧
    (rtcWords t f 2).toNat / 256 % 64 = t.minute.val ∧ (rtcWords t f 2).toNat % 64 = t.second.val ∧
    (rtcWords t f 3).toNat % 4096 = t.milli.val := by
  simp only [rtcWords, toNat_append_eq_add, BitVec.toNat_ofNat, BitVec.extractLsb'_toNat]
  omega

/-- The state after a reading of the clock, but for PC (R330). -/
def afterGetTime (s : State) : State :=
  setAnswer (rtcWords s.rtcTime fun k => Config.freeWord (s.free + k.val)) (s.setRtcTime (Config.rtcNow s.free)).draw.draw.draw.draw

theorem exec_hwqGetTime {s : State} (hS : s.ps.S = true) :
    exec .hwqGetTime s = .next ((afterGetTime s).setPc (addrOf s + 2)) := finish_requirePriv_next hS (afterGetTime s)

theorem afterGetTime_reg (s : State) (k : Fin 4) : (afterGetTime s).reg ⟨k.val, by omega⟩ =
    rtcWords s.rtcTime (fun k => Config.freeWord (s.free + k.val)) k := setAnswer_reg _ _ k

theorem afterGetTime_unchanged (s : State) :
    Unchanged (fun r => 4 ≤ r.val) (s.setRtcTime (Config.rtcNow s.free)) (afterGetTime s) :=
  Unchanged.setAnswer (OnlyBus.unchanged ⟨rfl, Nat.le_add_right _ 4⟩ _) _

theorem afterGetTime_fl (s : State) : (afterGetTime s).fl = s.fl := by
  simp only [afterGetTime, setAnswer, setReg_fl, draw_fl, setRtcTime_fl]

/-- Settles O40: the answer has the fields of the clock's reading, and their ranges are those of the fields. -/
theorem hwqClockTickAndTime : Obligations.HwqClockTickAndTime := by
  intro s hS
  refine ⟨⟨tickOf (s.reg 0), finish_requirePriv_next hS _, fun h => if_pos h, fun h => ⟨_, if_neg h, rfl⟩⟩,
    _, exec_hwqGetTime hS, ?_⟩
  have hframe := afterGetTime_unchanged s
  obtain ⟨hyear, hmonth, hday, hhour, hminute, hsecond, hmilli⟩ :=
    rtcWords_fields s.rtcTime fun k => Config.freeWord (s.free + k.val)
  rw [← afterGetTime_reg s 0] at hyear hmonth
  rw [← afterGetTime_reg s 1] at hday hhour
  rw [← afterGetTime_reg s 2] at hminute hsecond
  rw [← afterGetTime_reg s 3] at hmilli
  exact ⟨hyear, hmonth, hmonth.trans_le (Nat.le_of_lt_succ s.rtcTime.month.isLt), hday,
    hhour, hhour.trans_le (Nat.le_of_lt_succ s.rtcTime.hour.isLt), hminute,
    hminute.trans_le (Nat.le_of_lt_succ s.rtcTime.minute.isLt), hsecond,
    hsecond.trans_le (Nat.le_of_lt_succ s.rtcTime.second.isLt), hmilli,
    hmilli.trans_le (Nat.le_of_lt_succ s.rtcTime.milli.isLt), afterGetTime_fl s, rfl,
    ⟨hframe.regs, { hframe.status with rtcTime := rfl }, { hframe.sps with }, hframe.mmu, { hframe.memory with }⟩⟩

-- The bank map (R331, R332).

/-- The bank that a bank word selects, as the rule says it. -/
theorem decodeBank_eq (cfg : Params) (w : Word) : decodeBank cfg w =
    if w.getLsbD 15 then ⟨.rom, w.toNat % 32768 % cfg.nrom⟩ else ⟨.ram, w.toNat % 32768 % cfg.nram⟩ := by
  have hlow : (w.extractLsb' 0 15).toNat = w.toNat % 32768 := by simp [BitVec.extractLsb'_toNat]
  rw [decodeBank, hlow, BitVec.msb_eq_getLsbD_last]

theorem readArray_of_not_M {s : State} (hM : s.ps.M = false) (a : Word) (n : Nat) : ∃ l t, readArray a n s = .ok l t := by
  induction n generalizing a s with
  | zero => exact ⟨_, _, rfl⟩
  | succ n ih =>
    obtain ⟨w, t, hw⟩ := readWord_of_not_M hM .read a
    obtain ⟨l, u, hl⟩ := ih (s := t) (by rw [(readWord_onlyBus hw).store.ps, hM]) (a + 2)
    exact ⟨w :: l, u, by rw [readArray, hw, Res.bind_ok, hl, Res.bind_ok]⟩

theorem readArray_value {a : Word} {n : Nat} {s t : State} {l : List Word} (h : readArray a n s = .ok l t) {i : Nat} {w : Word}
    (hi : i < n) (hw : HoldsWord s (a + BitVec.ofNat 16 (2 * i)) w) : l.getD i 0 = w := by
  induction n generalizing a s l i with
  | zero => exact absurd hi (Nat.not_lt_zero i)
  | succ n ih =>
    obtain ⟨v, u, hu, h⟩ := Res.bind_eq_ok.1 h
    obtain ⟨l', t', hl, h⟩ := Res.bind_eq_ok.1 h
    cases h
    have hbus := readWord_onlyBus hu
    cases i with
    | zero =>
      rw [Nat.mul_zero, BitVec.add_zero] at hw
      rw [readWord_of_holdsWord hw] at hu
      cases hu
      rfl
    | succ i =>
      refine ih hl (Nat.lt_of_succ_lt_succ hi) ((HoldsWord.congr (fun x => hbus.translate x .read)
        ⟨hbus.ramByte, hbus.store.romByte⟩).2 ?_)
      have hat : a + 2 + BitVec.ofNat 16 (2 * i) = a + BitVec.ofNat 16 (2 * (i + 1)) :=
        (stack_above a 2 (2 * i)).trans (by rw [Nat.mul_succ, Nat.add_comm])
      rwa [hat]

/-- Settles O42: MIA reads its sixteen words before it sets the map. -/
theorem mimMiaSetBankMap : Obligations.MimMiaSetBankMap := by
  intro rv ra s bankOfWord
  have hdecode (w : Word) : decodeBank s.cfg w = bankOfWord w := decodeBank_eq s.cfg w
  refine ⟨fun hM => ?mim, fun hM => ?mia, fun hM => ⟨?mimOn, ?miaOn⟩, fun w => hdecode w ▸ decodeBank_exists s.cfg w⟩
  case mim =>
    refine ⟨(s.setBank ⟨(lowNibble (s.reg rv)).toNat, (lowNibble (s.reg rv)).isLt⟩ (decodeBank s.cfg (s.reg ra))).im, ?_,
      fun k => ?_⟩
    · change Host.Outcome.next (next 2 s (if s.ps.M then s else _)) = _
      rw [hM]
      rfl
    · refine (setBank_bank s _ k _).trans ?_
      simp only [Fin.ext_iff, lowNibble_toNat, hdecode]
  case mia =>
    obtain ⟨l, t, hl⟩ := readArray_of_not_M hM (s.reg ra) 16
    have hbus := readArray_onlyBus hl
    refine ⟨Vector.ofFn fun k => decodeBank s.cfg (l.getD k.val 0),
      next 2 s (t.setIm (Vector.ofFn fun k => decodeBank s.cfg (l.getD k.val 0))), ?_, ?_, fun k w hw => ?_, fun k => ?_⟩
    · change finish s (if s.ps.M then _ else _) = _
      rw [hM, if_neg Bool.false_ne_true, hl]
      rfl
    · rw [hbus.eq]
      rfl
    · rw [ofFn_get, readArray_value hl k.isLt hw, hdecode]
    · rw [ofFn_get]
      exact decodeBank_exists s.cfg _
  case mimOn =>
    change Host.Outcome.next (next 2 s (if s.ps.M then s else _)) = _
    rw [hM]
    rfl
  case miaOn =>
    change finish s (if s.ps.M then _ else _) = _
    rw [hM]
    rfl

end Sys2Proof.Machine
end

section
/-! PROOFS. The events of a step boundary (spec/60_exceptions.md R380 to R387), and what a fair environment does for the
processor (R383, R388, R392). -/

namespace Sys2Proof.Machine

-- Which event may be taken (R380 to R386).

theorem irqOrder_eq : (List.range 256).drop 1 = List.range' 1 255 := by
  rw [List.range_eq_range']
  rfl

theorem lowestIrq_isSome (irqs : List Nat) : (lowestIrq irqs).isSome = true ↔ ∃ d ∈ irqs, 1 ≤ d ∧ d ≤ 255 := by
  rw [lowestIrq, List.find?_isSome, irqOrder_eq]
  constructor
  · rintro ⟨d, hd, hc⟩
    obtain ⟨h1, h2⟩ := List.mem_range'_1.1 hd
    exact ⟨d, List.contains_iff_mem.1 hc, h1, by omega⟩
  · rintro ⟨d, hd, h1, h2⟩
    exact ⟨d, List.mem_range'_1.2 ⟨h1, by omega⟩, List.contains_iff_mem.2 hd⟩

theorem lowestIrq_of_least {irqs : List Nat} {d : Nat} (hd : d ∈ irqs) (h1 : 1 ≤ d) (h255 : d ≤ 255)
    (hleast : ∀ d' ∈ irqs, 1 ≤ d' → d ≤ d') : lowestIrq irqs = some d := by
  rw [lowestIrq, irqOrder_eq, List.find?_range'_eq_some]
  refine ⟨List.contains_iff_mem.2 hd, List.mem_range'_1.2 ⟨h1, by omega⟩, fun j hj hlt => ?_⟩
  by_contra hc
  have hj' : j ∈ irqs := by simpa using hc
  exact absurd (hleast j hj' hj) (by omega)

/-- An event may be taken where it is one of the four that the rule names, signalled and not masked. -/
theorem mem_eligible_iff {g : Signals} {s : State} {c : Cause} : c ∈ eligible g s ↔
    (c = .clock ∧ g.clockTick = true ∧ s.tick ≠ .disabled) ∨
    (c = .hwi ∧ s.ps.I = true ∧ s.ps.Q = false ∧ ∃ d ∈ g.irqs, 1 ≤ d ∧ d ≤ 255) ∨
    (c = .busRefresh ∧ g.busRefresh = true) ∨ (c = .debugQuery ∧ g.debugRise = true) := by
  rw [mem_eligible]
  cases c
  case hwi => simp [signalled, unmasked, lowestIrq_isSome, and_comm, and_assoc]
  all_goals simp [signalled, unmasked]

/-- Any event that may be taken is the environment's pick, with some number. -/
theorem exists_pick {g : Signals} {s : State} {c : Cause} (h : c ∈ eligible g s) :
    ∃ pick, pickEvent { g with pick := pick } s = some c := by
  obtain ⟨k, hk, hget⟩ := List.mem_iff_getElem.1 h
  refine ⟨k, ?_⟩
  change (eligible g s)[k % (eligible g s).length]? = some c
  rw [Nat.mod_eq_of_lt hk, List.getElem?_eq_getElem hk, hget]

theorem recordIrq_of_ne_hwi (g : Signals) (s : State) {c : Cause} (h : c ≠ .hwi) : recordIrq c g s = s := by
  cases c
  case hwi => exact absurd rfl h
  all_goals rfl

-- The step at a boundary (00_scope.md R11).

theorem step_of_reset {s : State} {g : Signals} {rest : List Signals} (h : s.inputs = g :: rest) (hr : g.reset = true) :
    step s = .next (performReset (s.setInputs rest)) := by
  simp only [step, runStep, h, hr, if_true]

theorem step_of_pick {g : Signals} {c : Cause} (s : State) (rest : List Signals) (hr : g.reset = false)
    (hc : pickEvent g s = some c) :
    step (s.setInputs (g :: rest)) = .next (takeInterrupt c s.pc (recordIrq c g (s.setInputs rest))) := by
  have hagain : (s.setInputs (g :: rest)).setInputs rest = s.setInputs rest := rfl
  simp only [step, runStep, setInputs_inputs, hr, Bool.false_eq_true, if_false, hagain, pickEvent_setInputs, hc,
    takeEvent, setInputs_pc]

theorem step_of_no_pick {s : State} {g : Signals} {rest : List Signals} (h : s.inputs = g :: rest)
    (hr : g.reset = false) (hc : pickEvent g s = none) : step s = runInstr (s.setInputs rest) := by
  simp only [step, runStep, h, hr, pickEvent_setInputs, hc, Bool.false_eq_true, if_false]

theorem pickEvent_eq_none {g : Signals} {s : State} (h : ∀ c, c ∉ eligible g s) : pickEvent g s = none := by
  rw [pickEvent, List.eq_nil_iff_forall_not_mem.2 h, List.getElem?_nil]

/-- Settles O52: what may be taken by `mem_eligible_iff`, what is taken by the pick. -/
theorem asyncEventsAtBoundary : Obligations.AsyncEventsAtBoundary := by
  intro s g rest hin t eligibleByRule takes
  have hmem (c : Cause) : c ∈ eligible g s ↔ eligibleByRule c := mem_eligible_iff
  have htakes {pick : Nat} {c : Cause} (hr : g.reset = false) (hp : pickEvent { g with pick := pick } s = some c) :
      takes pick c := by
    have hstep : step (s.setInputs ({ g with pick := pick } :: rest)) =
        .next (takeInterrupt c s.pc (recordIrq c { g with pick := pick } t)) := step_of_pick s rest hr hp
    refine ⟨fun hc => hstep.trans ?_, fun hc d hd h1 h255 hleast => hstep.trans ?_⟩
    · rw [recordIrq_of_ne_hwi _ _ hc]
    · rw [hc, recordIrq, lowestIrq_of_least hd h1 h255 hleast, Option.getD_some]
  refine ⟨step_of_reset hin, fun hr hno => ?_, fun hr ⟨c, hc⟩ => ?_, fun hr c hc => ?_⟩
  · exact step_of_no_pick hin hr (pickEvent_eq_none fun c hc => hno c ((hmem c).1 hc))
  · obtain ⟨d, hd⟩ := pickEvent_of_mem ((hmem c).2 hc)
    exact ⟨d, (hmem d).1 (pickEvent_mem hd), htakes hr hd⟩
  · obtain ⟨pick, hp⟩ := exists_pick ((hmem c).2 hc)
    exact ⟨pick, htakes hr hp⟩

-- A fair environment exists: after the given boundaries it signals the clock alone.

/-- The signals of a boundary at which the clock ticks and nothing else happens. -/
def clockOnly : Signals :=
  { reset := false, irqs := [], clockTick := true, busRefresh := false, debugRise := false, pick := 0 }

/-- The given records, then the clock alone. -/
def thenClock (l : List Signals) : Environment := fun n => l.getD n clockOnly

theorem thenClock_of_lt {l : List Signals} {n : Nat} (h : n < l.length) : thenClock l n = l[n] := by
  rw [thenClock, List.getD_eq_getElem _ _ h]

theorem thenClock_of_le {l : List Signals} {n : Nat} (h : l.length ≤ n) : thenClock l n = clockOnly := by
  rw [thenClock, List.getD_eq_default _ _ h]

theorem eq_clock_of_mem_eligible {s : State} {c : Cause} (h : c ∈ eligible clockOnly s) : c = .clock := by
  rcases mem_eligible_iff.1 h with ⟨hc, -⟩ | ⟨-, -, -, d, hd, -⟩ | ⟨-, h⟩ | ⟨-, h⟩
  · exact hc
  · exact absurd hd List.not_mem_nil
  · exact absurd h Bool.false_ne_true
  · exact absurd h Bool.false_ne_true

theorem thenClock_fair (l : List Signals) (s : State) : FairEnvironment (thenClock l) s where
  events := fun c n _ hel => by
    obtain ⟨k, hk, t, ht, hr, hc⟩ := hel (max n l.length) (le_max_left _ _)
    refine ⟨k, (le_max_left _ _).trans hk, t, ht, hr, ?_⟩
    obtain ⟨d, hd⟩ := pickEvent_of_mem hc
    have hdm := pickEvent_mem hd
    rw [thenClock_of_le ((le_max_right _ _).trans hk)] at hc hdm
    rw [hd, eq_clock_of_mem_eligible hc, eq_clock_of_mem_eligible hdm]
  clock := fun n hrun => by
    obtain ⟨t, ht, htick⟩ := hrun (max n l.length) (le_max_left _ _)
    refine ⟨_, le_max_left _ _, t, ht, ?_⟩
    rw [thenClock_of_le (le_max_right _ _)]
    simp [signalled, clockOnly, htick]

-- What fairness gives (R383, R388).

theorem unmasked_of_ne_hwi (s : State) {c : Cause} (h : c ≠ .hwi) : unmasked s c = true := by
  cases c
  case hwi => exact absurd rfl h
  all_goals rfl

/-- An event that stays signalled, unmasked again and again, is taken. -/
theorem taken_of_fair {env : Environment} {s : State} {c : Cause} {n : Nat} (hf : FairToEvents env s)
    (hsig : ∀ m ≥ n, SignalledAt env s c m ∧ (env m).reset = false)
    (hun : c = .hwi → ∀ m ≥ n, ∃ k ≥ m, ∃ t, runUnder env s k = .next t ∧ t.ps.I = true ∧ t.ps.Q = false) :
    ∃ m ≥ n, TakenAt env s c m := by
  refine hf c n (fun m hm => (hsig m hm).1) fun m hm => ?_
  have heligible {k : Nat} (hk : k ≥ m) (hu : ∀ t, runUnder env s k = .next t → unmasked t c = true) : EligibleAt env s c k := by
    obtain ⟨⟨t, ht, hs⟩, hr⟩ := hsig k (hm.trans hk)
    exact ⟨t, ht, hr, mem_eligible.2 ⟨hs, hu t ht⟩⟩
  by_cases hc : c = .hwi
  · obtain ⟨k, hk, t, ht, hI, hQ⟩ := hun hc m hm
    refine ⟨k, hk, heligible hk fun t' ht' => ?_⟩
    cases ht.symm.trans ht'
    rw [hc, unmasked, hI, hQ]
    rfl
  · exact ⟨m, le_refl m, heligible (le_refl m) fun t _ => unmasked_of_ne_hwi t hc⟩

/-- A halted processor at a boundary: it wakes, or nothing may be taken and it stays as it is. -/
theorem stepWith_halted {g : Signals} {s : State} (h : s.halted = true) :
    (∃ t, stepWith g s = .next t ∧ t.halted = false) ∨
    ((∀ c, c ∉ eligible g s) ∧ stepWith g s = .next (s.setInputs [])) := by
  rw [stepWith_eq]
  split
  · exact .inl ⟨_, rfl, performReset_halted _⟩
  · cases hp : pickEvent g s with
    | some c => exact .inl ⟨_, rfl, takeInterrupt_halted ..⟩
    | none =>
      refine .inr ⟨fun c hc => ?_, if_pos h⟩
      obtain ⟨d, hd⟩ := pickEvent_of_mem hc
      exact absurd (hp.symm.trans hd) nofun

/-- A processor that is halted at every boundary is at each of them, with its tick as it was. -/
theorem runUnder_of_halted {env : Environment} {s : State} (h : ∀ n t, runUnder env s n = .next t → t.halted = true) (n : Nat) :
    ∃ t, runUnder env s n = .next t ∧ t.tick = s.tick := by
  induction n with
  | zero => exact ⟨s, rfl, rfl⟩
  | succ n ih =>
    obtain ⟨t, ht, htick⟩ := ih
    rcases stepWith_halted (g := env n) (h n t ht) with ⟨u, hu, hawake⟩ | ⟨-, hu⟩
    · exact absurd ((h (n + 1) u ((runUnder_succ ht).trans hu)).symm.trans hawake) nofun
    · exact ⟨_, (runUnder_succ ht).trans hu, htick⟩

/-- A fair clock wakes a halted processor whose tick is enabled (R388, R392). -/
theorem wakes_of_fairClock {env : Environment} {s : State} (hf : FairClock env s) (htick : s.tick ≠ .disabled) :
    ∃ n t, runUnder env s n = .next t ∧ t.halted = false := by
  by_contra hasleep
  have hhalted (n : Nat) (t : State) (ht : runUnder env s n = .next t) : t.halted = true := by
    by_contra hawake
    exact hasleep ⟨n, t, ht, eq_false_of_ne_true hawake⟩
  obtain ⟨m, -, t, ht, hs⟩ := hf 0 fun m _ => by
    obtain ⟨t, ht, hk⟩ := runUnder_of_halted hhalted m
    exact ⟨t, ht, hk ▸ htick⟩
  rcases stepWith_halted (g := env m) (hhalted m t ht) with ⟨u, hu, hawake⟩ | ⟨hnone, -⟩
  · exact hasleep ⟨m + 1, u, (runUnder_succ ht).trans hu, hawake⟩
  · exact hnone .clock (mem_eligible.2 ⟨hs, rfl⟩)

/-- Settles O60: the environment that goes on with the clock alone; the pick; the boundary at which the clock is signalled. -/
theorem fairEnvironmentServesEvents : Obligations.FairEnvironmentServesEvents := by
  refine ⟨fun s l => ⟨thenClock l, thenClock_fair l s, fun _ h => thenClock_of_lt h⟩, fun env s c n hf hsig hun => ?_,
    fun env s hf _ htick => wakes_of_fairClock hf htick⟩
  obtain ⟨m, hm, htaken⟩ := taken_of_fair hf hsig hun
  obtain ⟨t, ht, hnext⟩ := htaken.next
  exact ⟨m, hm, t, ht, hnext⟩

end Sys2Proof.Machine
end
